-- ==== Sys2Proof/Word.lean ====
section
/-! DEFINITION. The widths the spec fixes (00_scope.md R7): bytes, 16-bit and 32-bit values, all unsigned. -/

namespace Sys2Proof

/-- u8: one byte of a byte string, a frame kind, a command kind, a parameter count (R7, R8). -/
abbrev Byte := BitVec 8

/-- u16: the length field, the CRC and the options field (R7, R8). -/
abbrev Half := BitVec 16

/-- u32: the request word and each parameter (R7, R21). -/
abbrev Word := BitVec 32

end Sys2Proof
end

