-- ==== Sys2Proof/Machine/Flags.lean ====
section
/-! DEFINITION. The block's only condition outputs (10_state.md R34): the STATUS codes of 60_exceptions.md R201, and
the data-phase reading of a flag byte (42_command.md R152). -/

namespace Sys2Proof.Machine

/-- The outcome codes of an operation (R201). -/
inductive StatusCode where
  | ok
  | malformedFrame
  | tooManyParameters
  | unexpectedResponseShape
  | payloadTooLong
  | illegalOperation
  deriving DecidableEq, Repr

/-- The value STATUS holds for a code (R201). -/
def statusByte : StatusCode → Byte
  | .ok => 0x00
  | .malformedFrame => 0x01
  | .tooManyParameters => 0x02
  | .unexpectedResponseShape => 0x03
  | .payloadTooLong => 0x04
  | .illegalOperation => 0x05

/-- `has_data_phase = (R_CMD_FLAG ≠ 0)` (R21, R152): how a caller reads the raw flag byte. -/
def hasDataPhase (flag : Byte) : Bool := flag != 0

end Sys2Proof.Machine
end

