-- ==== Sys2Proof/Config.lean ====
section
/-! DEFINITION. The implementation parameters of 00_scope.md R6: the fixed ones as constants, the OPEN ones as a
configuration record that no proof can see into (R35: fixed before reset, read by operations, written by none). -/

namespace Sys2Proof

/-- `PING_OPTIONS_OFFSET` (R6, 92 D16): the field of a ping response that holds the options starts at byte 5 (the
default) or at byte 6; no other value is well formed (R233). -/
inductive PingOptionsOffset where
  | five
  | six
  deriving DecidableEq, Repr, Inhabited

/-- The OPEN parameters of R6 that an operation of the block compares with (R35). -/
structure Config where
  /-- `FRAME_KIND_ACK`, a byte the source does not give (92 D8). -/
  frameKindAck : Byte
  /-- `FRAME_KIND_NAK`, a byte the source does not give (92 D8). -/
  frameKindNak : Byte
  /-- `CMD_KIND_RESPONSE_GENERIC`, a byte the source does not give (92 D9). -/
  cmdKindResponseGeneric : Byte
  /-- `PING_OPTIONS_OFFSET` (92 D16). -/
  pingOptionsOffset : PingOptionsOffset
  deriving DecidableEq, Repr, Inhabited

/-- A configuration is well formed only if the ack and the nak kind differ (R6, R233). -/
abbrev Config.wf (c : Config) : Prop := c.frameKindAck ≠ c.frameKindNak

/-- The values a block instance was given for the OPEN parameters: no body, so no proof can use one of them (log 3). -/
opaque Config.given : Config

/-- The configuration of this block instance: the given one where it is well formed. A configuration with equal ack
and nak kinds is rejected before anything runs (93 I6): it is no configuration of the model, and the values the
model ranges over are exactly the well formed ones (log 3). -/
def Config.cce : Config :=
  if Config.given.frameKindAck = Config.given.frameKindNak then
    { Config.given with frameKindNak := Config.given.frameKindAck + 1 }
  else Config.given

/-- The logical operations whose wire command kind is a configuration table, as far as the source names them
(R6 `CMD_KIND_TABLE`, 91 N4). -/
inductive LogicalOp where
  | reset
  | responseGeneric
  | getProperty
  | setProperty
  | execute
  | flashEraseAll
  | flashEraseRegion
  | flashSecurityDisable
  | flashEraseAllUnsecure
  deriving DecidableEq, Repr

/-- The OPEN entries of `CMD_KIND_TABLE` (R6, 90 C7): no body. -/
opaque Config.cmdKindOpen : LogicalOp → Byte

/-- `CMD_KIND_TABLE` (R6): Reset is fixed at 0x0B, ResponseGeneric is the parameter of its own, every other entry is
open. No rule of the block reads the table: ENCODE_COMMAND sends the kind it is given (R150). -/
def Config.cmdKind : LogicalOp → Byte
  | .reset => 0x0B
  | .responseGeneric => Config.cce.cmdKindResponseGeneric
  | op => Config.cmdKindOpen op

/-- `FRAME_MARKER` (R6). -/
def frameMarker : Byte := 0x5A
/-- `FRAME_KIND_COMMAND` (R6). -/
def frameKindCommand : Byte := 0xA4
/-- `FRAME_KIND_PING` (R6). -/
def frameKindPing : Byte := 0xA6
/-- `FRAME_KIND_PING_RESPONSE` (R6). -/
def frameKindPingResponse : Byte := 0xA7
/-- `CRC_POLY` (R6). -/
def crcPoly : Half := 0x1021
/-- `CRC_SEED` (R6). -/
def crcSeed : Half := 0x0000
/-- `MAX_PARAMS` (R6). -/
def maxParams : Nat := 7
/-- `MAX_PAYLOAD` (R6): what the 16-bit length field can hold. -/
def maxPayload : Nat := 65535
/-- `FRAME_HEADER_LEN` (R6). -/
def frameHeaderLen : Nat := 6
/-- `PING_RESPONSE_LEN` (R6). -/
def pingResponseLen : Nat := 10
/-- `CMD_HEADER_LEN` (R6). -/
def cmdHeaderLen : Nat := 4

end Sys2Proof
end

