-- ==== Sys2Proof/Machine/Crc.lean ====
section
/-! DEFINITION. The CRC as pure functions (40_crc.md R100 to R102). -/

namespace Sys2Proof.Machine

/-- `crc_step` (R100): shift left; where the high bit was set, XOR with the polynomial. -/
def crcStep (acc : Half) : Half :=
  if acc.msb then (acc <<< 1) ^^^ crcPoly else acc <<< 1

/-- `crc_byte` (R101): XOR the byte into the high byte of the accumulator, then eight iterations. -/
def crcByte (acc : Half) (b : Byte) : Half :=
  Nat.repeat crcStep 8 (acc ^^^ (b.setWidth 16 <<< 8))

/-- The bytes of one span folded into the accumulator in increasing index order (R102, R104). -/
def crcFold (acc : Half) (span : List Byte) : Half := span.foldl crcByte acc

/-- `crc16(s1, …, sk)` (R102): the seed, then every span in call order with no reset between them and no final
XOR. -/
def crc16 (spans : List (List Byte)) : Half := spans.foldl crcFold crcSeed

end Sys2Proof.Machine
end

