-- ==== Sys2Proof/Machine/Operands.lean ====
section
/-! DEFINITION. Operand assembly: the fields of the request word (30_encoding.md R81, R84) and the little-endian
byte-order primitives (00_scope.md R9, 20_memory.md R53). -/

namespace Sys2Proof.Machine

/-! ## The request word (R81) -/

/-- `OP = REQ[3:0]`. -/
def reqOp (w : Word) : BitVec 4 := w.extractLsb' 0 4

/-- `HAS_PAYLOAD = REQ[4]`, where 1 means true (R84). -/
def reqHasPayload (w : Word) : Bool := w.getLsbD 4

/-- `HAS_DATA = REQ[5]`, where 1 means true (R84). -/
def reqHasData (w : Word) : Bool := w.getLsbD 5

/-- `RSVD0 = REQ[7:6]`. -/
def reqRsvd0 (w : Word) : BitVec 2 := w.extractLsb' 6 2

/-- `KIND = REQ[15:8]`, used without extension (R84). -/
def reqKind (w : Word) : Byte := w.extractLsb' 8 8

/-- `PCOUNT = REQ[23:16]`, used as a u8 count (R84). -/
def reqPcount (w : Word) : Byte := w.extractLsb' 16 8

/-- `RSVD1 = REQ[31:24]`. -/
def reqRsvd1 (w : Word) : Byte := w.extractLsb' 24 8

/-- The request word of an operation code and its fields, with both reserved fields 0 (R81, R120, R150). -/
def reqWord (op : BitVec 4) (hasPayload hasData : Bool) (kind pcount : Byte) : Word :=
  (pcount.setWidth 32 <<< 16) ||| (kind.setWidth 32 <<< 8) ||| ((BitVec.ofBool hasData).setWidth 32 <<< 5)
    ||| ((BitVec.ofBool hasPayload).setWidth 32 <<< 4) ||| op.setWidth 32

/-! ## Byte order (R9, R53) -/

/-- `le16(lo, hi)` (R9). -/
def le16 (lo hi : Byte) : Half := lo.setWidth 16 ||| (hi.setWidth 16 <<< 8)

/-- `le32(b0, b1, b2, b3)` (R9). -/
def le32 (b0 b1 b2 b3 : Byte) : Word :=
  b0.setWidth 32 ||| (b1.setWidth 32 <<< 8) ||| (b2.setWidth 32 <<< 16) ||| (b3.setWidth 32 <<< 24)

/-- `bytes_le16(v) = [v[7:0], v[15:8]]` (R9). -/
def bytesLe16 (v : Half) : List Byte := [v.extractLsb' 0 8, v.extractLsb' 8 8]

/-- `bytes_le32(v) = [v[7:0], v[15:8], v[23:16], v[31:24]]` (R9). -/
def bytesLe32 (v : Word) : List Byte :=
  [v.extractLsb' 0 8, v.extractLsb' 8 8, v.extractLsb' 16 8, v.extractLsb' 24 8]

/-- The parameter words of a byte string, `param[i] = le32(p[4i], …, p[4i+3])` counted from its start (R151); bytes
that do not fill a word are left out. -/
def wordsLe : List Byte → List Word
  | b0 :: b1 :: b2 :: b3 :: rest => le32 b0 b1 b2 b3 :: wordsLe rest
  | _ => []

/-- The length field of a string of `n` bytes (R71): `n` itself where it is at most 65535. -/
def lengthField (n : Nat) : Half := BitVec.ofNat 16 n

end Sys2Proof.Machine
end

