-- ==== Sys2Proof/Machine/WireFormat.lean ====
section
/-! DEFINITION. The byte layouts of the wire formats (30_encoding.md R70 to R76), built from their fields. -/

namespace Sys2Proof.Machine

/-- Bare frame (R70): marker and kind. -/
def bareFrameBytes (kind : Byte) : List Byte := [frameMarker, kind]

/-- The four covered header bytes of a payload frame (R71): marker, kind and the length field. -/
def frameHeader (kind : Byte) (length : Half) : List Byte := frameMarker :: kind :: bytesLe16 length

/-- The CRC of a payload frame (R71): over the four header bytes, then the payload. -/
def frameCrc (kind : Byte) (payload : List Byte) : Half :=
  crc16 [frameHeader kind (lengthField payload.length), payload]

/-- Payload frame (R71): header, CRC, payload. -/
def payloadFrameBytes (kind : Byte) (payload : List Byte) : List Byte :=
  frameHeader kind (lengthField payload.length) ++ bytesLe16 (frameCrc kind payload) ++ payload

/-- Command payload (R72): four header bytes, then the parameter words. `flag` and `rsvd` are the bytes at payload
offsets 1 and 2. -/
def commandBytes (cmdKind flag rsvd count : Byte) (params : List Word) : List Byte :=
  [cmdKind, flag, rsvd, count] ++ params.flatMap bytesLe32

/-- The data-phase byte that is written: 0x01 or 0x00 (R72, R84). -/
def flagByte (hasData : Bool) : Byte := (BitVec.ofBool hasData).setWidth 8

/-- The command payload the block builds (R72, R150): reserved byte 0, and the number of parameters. -/
def commandPayload (cmdKind : Byte) (hasData : Bool) (params : List Word) : List Byte :=
  commandBytes cmdKind (flagByte hasData) 0x00 (BitVec.ofNat 8 params.length) params

/-- Command frame (R72): the command payload in a payload frame of kind 0xA4. -/
def commandFrameBytes (cmdKind : Byte) (hasData : Bool) (params : List Word) : List Byte :=
  payloadFrameBytes frameKindCommand (commandPayload cmdKind hasData params)

/-- Generic response (R76): a command of kind `responseGeneric` with two parameters, the status code and the echoed
command kind; the decoder checks neither `flag` nor `rsvd` (R78). -/
def genericResponseBytes (responseGeneric flag rsvd : Byte) (statusCode echoedKind : Word) : List Byte :=
  payloadFrameBytes frameKindCommand (commandBytes responseGeneric flag rsvd 2 [statusCode, echoedKind])

/-- The eight covered bytes of a ping response (R73). -/
def pingResponseBody (patch minor major byte5 byte6 byte7 : Byte) : List Byte :=
  [frameMarker, frameKindPingResponse, patch, minor, major, byte5, byte6, byte7]

/-- Ping response (R73): ten bytes, with the CRC of the first eight at the end. -/
def pingResponseBytes (patch minor major byte5 byte6 byte7 : Byte) : List Byte :=
  pingResponseBody patch minor major byte5 byte6 byte7
    ++ bytesLe16 (crc16 [pingResponseBody patch minor major byte5 byte6 byte7])

end Sys2Proof.Machine
end

