-- ==== Sys2Proof/Machine/FrameCodec.lean ====
section
/-! DEFINITION. The Frame Codec as pure functions of byte strings (41_frame.md R120, R121, R124). A failure is the
status code the operation raises. -/

namespace Sys2Proof.Machine

/-- The record `decodeFrame` returns (R121). -/
structure Frame where
  kind : Byte
  length : Half
  crc : Half
  payload : List Byte
  deriving DecidableEq, Repr

/-- `encode_frame` (R120): an absent payload gives the bare frame, a present one the payload frame, and one longer
than the length field can say gives PAYLOAD_TOO_LONG. -/
def encodeFrame (kind : Byte) : Option (List Byte) → Except StatusCode (List Byte)
  | none => .ok (bareFrameBytes kind)
  | some payload =>
    if maxPayload < payload.length then .error .payloadTooLong
    else .ok (payloadFrameBytes kind payload)

/-- `decodeFrame` (R121), its checks in the order R203 item 3 gives: empty input or wrong marker, short header, length,
CRC. The sum `6 + length` is a natural number: it does not wrap. -/
def decodeFrame (b : List Byte) : Except StatusCode Frame :=
  match b with
  | [] => .error .malformedFrame
  | m :: rest =>
    if m ≠ frameMarker then .error .malformedFrame
    else
      match rest with
      | k :: l0 :: l1 :: c0 :: c1 :: payload =>
        if frameHeaderLen + (le16 l0 l1).toNat ≠ b.length then .error .malformedFrame
        else if crc16 [[m, k, l0, l1], payload] ≠ le16 c0 c1 then .error .malformedFrame
        else .ok { kind := k, length := le16 l0 l1, crc := le16 c0 c1, payload := payload }
      | _ => .error .malformedFrame

/-- The record `decodePingResponse` returns (R124). -/
structure PingResponse where
  kind : Byte
  crc : Half
  patch : Byte
  minor : Byte
  major : Byte
  options : Half
  deriving DecidableEq, Repr

/-- The options field of a ping response whose bytes 5 to 7 are given: `le16(b[o], b[o+1])` (R73, R124). -/
def pingOptions (o : PingOptionsOffset) (byte5 byte6 byte7 : Byte) : Half :=
  match o with
  | .five => le16 byte5 byte6
  | .six => le16 byte6 byte7

/-- `decode_ping_response` (R124): exactly ten bytes, then marker, kind and CRC are checked; byte 7 is not. -/
def decodePingResponse (o : PingOptionsOffset) (b : List Byte) : Except StatusCode PingResponse :=
  match b with
  | [m, k, patch, minor, major, byte5, byte6, byte7, c0, c1] =>
    if m ≠ frameMarker then .error .malformedFrame
    else if k ≠ frameKindPingResponse then .error .malformedFrame
    else if crc16 [[m, k, patch, minor, major, byte5, byte6, byte7]] ≠ le16 c0 c1 then .error .malformedFrame
    else .ok
      { kind := k, crc := le16 c0 c1, patch := patch, minor := minor, major := major
        options := pingOptions o byte5 byte6 byte7 }
  | _ => .error .malformedFrame

end Sys2Proof.Machine
end

