-- ==== Sys2Proof/Machine/CommandCodec.lean ====
section
/-! DEFINITION. The Command Codec as pure functions of byte strings (42_command.md R150, R151, R153, R154). -/

namespace Sys2Proof.Machine

/-- The record `decodeCommand` returns (R151). -/
structure Command where
  frameKind : Byte
  length : Half
  crc : Half
  kind : Byte
  flag : Byte
  rsvd : Byte
  count : Byte
  params : List Word
  deriving DecidableEq, Repr

/-- `encode_command` after its count check (R150): the command payload wrapped as a Command-kind frame. -/
def encodeCommand (kind : Byte) (hasData : Bool) (params : List Word) : Except StatusCode (List Byte) :=
  encodeFrame frameKindCommand (some (commandPayload kind hasData params))

/-- The command a decoded frame carries (R151): a complete header, a count of at most 7, and a payload of
`4 + 4·count` bytes. The kind, flag and reserved bytes are returned raw and not checked (R152). -/
def commandOf (r : Frame) : Except StatusCode Command :=
  match r.payload with
  | kind :: flag :: rsvd :: count :: body =>
    if maxParams < count.toNat then .error .malformedFrame
    else if r.payload.length ≠ cmdHeaderLen + 4 * count.toNat then .error .malformedFrame
    else .ok
      { frameKind := r.kind, length := r.length, crc := r.crc, kind := kind, flag := flag, rsvd := rsvd
        count := count, params := wordsLe body }
  | _ => .error .malformedFrame

/-- `decodeCommand` (R151): `decodeFrame`, then the command in its payload. -/
def decodeCommand (b : List Byte) : Except StatusCode Command :=
  match decodeFrame b with
  | .error e => .error e
  | .ok r => commandOf r

/-- `decode_generic_response` (R153): a decoded command of kind `responseGeneric` with count 2 gives its two
parameters; any other decoded command has the wrong shape. MALFORMED_FRAME outranks the shape (R203 item 4). A decoded
command of count 2 has two parameters (R151), so the last arm is never reached. -/
def decodeGenericResponse (responseGeneric : Byte) (b : List Byte) : Except StatusCode (Word × Word) :=
  match decodeCommand b with
  | .error e => .error e
  | .ok r =>
    if r.kind ≠ responseGeneric ∨ r.count ≠ 2 then .error .unexpectedResponseShape
    else
      match r.params with
      | [statusCode, echoedKind] => .ok (statusCode, echoedKind)
      | _ => .error .unexpectedResponseShape

end Sys2Proof.Machine
end

