-- ==== Sys2Proof/Syntax.lean ====
section
/-! DEFINITION. The rows of spec/opcode_table.json as one inductive: the eleven operations of the request word
(30_encoding.md R80), the five reserved operation codes (R83), and the eight wire formats (R70 to R76). -/

namespace Sys2Proof

/-- One constructor per row of the opcode table. An operation carries exactly the request fields it reads (R82). A
wire format carries the fields of its layout that its rule leaves free; marker, length and CRC follow from them. -/
inductive Instr where
  /-- CRC_INIT, OP 0x0 (R103). -/
  | crcInit
  /-- CRC_FEED, OP 0x1 (R104). -/
  | crcFeed
  /-- CRC_READ, OP 0x2 (R105). -/
  | crcRead
  /-- CRC16, OP 0x3 (R106). -/
  | crc16
  /-- ENCODE_FRAME, OP 0x4 (R120): KIND and HAS_PAYLOAD. -/
  | encodeFrame (kind : Byte) (hasPayload : Bool)
  /-- DECODE_FRAME, OP 0x5 (R121). -/
  | decodeFrame
  /-- DECODE_PING_RESPONSE, OP 0x6 (R124). -/
  | decodePingResponse
  /-- ENCODE_COMMAND, OP 0x7 (R150): KIND, HAS_DATA and PCOUNT. -/
  | encodeCommand (kind : Byte) (hasData : Bool) (pcount : Byte)
  /-- DECODE_COMMAND, OP 0x8 (R151). -/
  | decodeCommand
  /-- DECODE_GENERIC_RESPONSE, OP 0x9 (R153). -/
  | decodeGenericResponse
  /-- DECODE_ACK, OP 0xA (R154). -/
  | decodeAck
  /-- RESERVED_OP, OP 0xB (R83). -/
  | reservedOpB
  /-- RESERVED_OP, OP 0xC (R83). -/
  | reservedOpC
  /-- RESERVED_OP, OP 0xD (R83). -/
  | reservedOpD
  /-- RESERVED_OP, OP 0xE (R83). -/
  | reservedOpE
  /-- RESERVED_OP, OP 0xF (R83). -/
  | reservedOpF
  /-- WIRE_BARE_FRAME (R70): marker and kind. -/
  | wireBareFrame (kind : Byte)
  /-- WIRE_PING_REQUEST (R74): the bare frame of kind 0xA6. -/
  | wirePingRequest
  /-- WIRE_ACK (R75): the bare frame of kind `FRAME_KIND_ACK`. -/
  | wireAck
  /-- WIRE_NAK (R75): the bare frame of kind `FRAME_KIND_NAK`. -/
  | wireNak
  /-- WIRE_PAYLOAD_FRAME (R71): kind and payload. -/
  | wirePayloadFrame (kind : Byte) (payload : List Byte)
  /-- WIRE_COMMAND_FRAME (R72): command kind, data-phase flag and parameters. -/
  | wireCommandFrame (cmdKind : Byte) (hasData : Bool) (params : List Word)
  /-- WIRE_GENERIC_RESPONSE (R76): the two header bytes the table leaves free, status code and echoed kind. -/
  | wireGenericResponse (flag rsvd : Byte) (statusCode echoedKind : Word)
  /-- WIRE_PING_RESPONSE (R73): version bytes and bytes 5 to 7, which hold the options and the reserved byte. -/
  | wirePingResponse (patch minor major byte5 byte6 byte7 : Byte)
  deriving DecidableEq, Repr

/-- The wire form the caller says a byte string has: the forms overlap, so the kind byte does not tell them apart
(R77). -/
inductive WireForm where
  | bareFrame
  | pingRequest
  | ack
  | nak
  | payloadFrame
  | commandFrame
  | genericResponse
  | pingResponse
  deriving DecidableEq, Repr

/-- What the decoder reads: a 32-bit request word (R81), or a byte string presented as a frame of a form (R77). -/
inductive Presented where
  | request (w : Word)
  | frame (form : WireForm) (bytes : List Byte)
  deriving DecidableEq, Repr

end Sys2Proof
end

