-- ==== Sys2Proof/WellFormed.lean ====
section
/-! DEFINITION. What an instruction must satisfy to have an encoding: the bounds of the wire formats that the types of
the fields do not already give. -/

namespace Sys2Proof

/-- A payload fits the 16-bit length field (R71) and a command has at most seven parameters (R72); every other
instruction is well formed by the types of its fields. -/
def Instr.wf : Instr → Bool
  | .crcInit => true
  | .crcFeed => true
  | .crcRead => true
  | .crc16 => true
  | .encodeFrame _ _ => true
  | .decodeFrame => true
  | .decodePingResponse => true
  | .encodeCommand _ _ _ => true
  | .decodeCommand => true
  | .decodeGenericResponse => true
  | .decodeAck => true
  | .reservedOpB => true
  | .reservedOpC => true
  | .reservedOpD => true
  | .reservedOpE => true
  | .reservedOpF => true
  | .wireBareFrame _ => true
  | .wirePingRequest => true
  | .wireAck => true
  | .wireNak => true
  | .wirePayloadFrame _ payload => decide (payload.length ≤ maxPayload)
  | .wireCommandFrame _ _ params => decide (params.length ≤ maxParams)
  | .wireGenericResponse _ _ _ _ => true
  | .wirePingResponse _ _ _ _ _ _ => true

end Sys2Proof
end

