-- ==== Sys2Proof/Decode.lean ====
section
/-! DEFINITION. From bits to an instruction, total and rejecting by name, and back: the request word (30_encoding.md
R80 to R85) and the wire formats (R70 to R78). -/

namespace Sys2Proof

open Machine

/-- Why nothing decodes. A rejected request word is not a stop of the machine: the operation raises
ILLEGAL_OPERATION (R83). -/
inductive DecodeError where
  /-- RSVD0, bits 7:6 of the request word, is not 0 (R83). -/
  | rsvd0NotZero
  /-- RSVD1, bits 31:24 of the request word, is not 0 (R83). -/
  | rsvd1NotZero
  /-- The byte string is not a frame of the form it was presented as (R70 to R76). -/
  | notOfForm (form : WireForm)
  deriving DecidableEq, Repr

/-! ## The request word -/

/-- The operation an operation code selects, with the request fields it reads (R80, R82). -/
def operationOf (w : Word) : Instr :=
  match (reqOp w).toNat with
  | 0x0 => .crcInit
  | 0x1 => .crcFeed
  | 0x2 => .crcRead
  | 0x3 => .crc16
  | 0x4 => .encodeFrame (reqKind w) (reqHasPayload w)
  | 0x5 => .decodeFrame
  | 0x6 => .decodePingResponse
  | 0x7 => .encodeCommand (reqKind w) (reqHasData w) (reqPcount w)
  | 0x8 => .decodeCommand
  | 0x9 => .decodeGenericResponse
  | 0xA => .decodeAck
  | 0xB => .reservedOpB
  | 0xC => .reservedOpC
  | 0xD => .reservedOpD
  | 0xE => .reservedOpE
  | _ => .reservedOpF

/-- Decoding a request word: a reserved operation code is a row of the table whatever its other bits; any other code
needs both reserved fields 0 (R81, R83). Fields the operation does not read are ignored (R82). -/
def decodeReq (w : Word) : Except DecodeError Instr :=
  if 0xA < (reqOp w).toNat then .ok (operationOf w)
  else if reqRsvd0 w ≠ 0 then .error .rsvd0NotZero
  else if reqRsvd1 w ≠ 0 then .error .rsvd1NotZero
  else .ok (operationOf w)

/-! ## The wire formats -/

/-- The command a byte string carries in a frame of kind `FRAME_KIND_COMMAND` (R72, R76). -/
def commandFrameOf (b : List Byte) : Option Command :=
  match decodeCommand b with
  | .ok c => if c.frameKind = frameKindCommand then some c else none
  | .error _ => none

/-- The fields of a byte string under a wire form (R70 to R76); nothing where it is not of that form. -/
def wireFields (form : WireForm) (b : List Byte) : Option Instr :=
  match form with
  | .bareFrame =>
    match b with
    | [m, k] => if m = frameMarker then some (.wireBareFrame k) else none
    | _ => none
  | .pingRequest => if b = bareFrameBytes frameKindPing then some .wirePingRequest else none
  | .ack => if b = bareFrameBytes Config.cce.frameKindAck then some .wireAck else none
  | .nak => if b = bareFrameBytes Config.cce.frameKindNak then some .wireNak else none
  | .payloadFrame =>
    match decodeFrame b with
    | .ok r => some (.wirePayloadFrame r.kind r.payload)
    | .error _ => none
  | .commandFrame =>
    match commandFrameOf b with
    | some c =>
      if c.rsvd ≠ 0 then none
      else if c.flag = flagByte true then some (.wireCommandFrame c.kind true c.params)
      else if c.flag = flagByte false then some (.wireCommandFrame c.kind false c.params)
      else none
    | none => none
  | .genericResponse =>
    match commandFrameOf b with
    | some c =>
      if c.kind ≠ Config.cce.cmdKindResponseGeneric then none
      else
        match c.params with
        | [statusCode, echoedKind] => some (.wireGenericResponse c.flag c.rsvd statusCode echoedKind)
        | _ => none
    | none => none
  | .pingResponse =>
    match b with
    | [_, _, patch, minor, major, byte5, byte6, byte7, _, _] =>
      if b = pingResponseBytes patch minor major byte5 byte6 byte7 then
        some (.wirePingResponse patch minor major byte5 byte6 byte7)
      else none
    | _ => none

/-- Decoding a byte string presented as a frame of a form: a string that is not of the form is rejected by name. -/
def decodeWire (form : WireForm) (b : List Byte) : Except DecodeError Instr :=
  match wireFields form b with
  | some instr => .ok instr
  | none => .error (.notOfForm form)

/-- Decoding whatever is presented. -/
def decode : Presented → Except DecodeError Instr
  | .request w => decodeReq w
  | .frame form b => decodeWire form b

/-! ## The encoder -/

/-- The words of an instruction (R80, R81), with 0 in the request fields it does not read (R82); the bytes of a wire
format (R70 to R76). -/
def encode : Instr → Presented
  | .crcInit => .request (reqWord 0x0 false false 0 0)
  | .crcFeed => .request (reqWord 0x1 false false 0 0)
  | .crcRead => .request (reqWord 0x2 false false 0 0)
  | .crc16 => .request (reqWord 0x3 false false 0 0)
  | .encodeFrame kind hasPayload => .request (reqWord 0x4 hasPayload false kind 0)
  | .decodeFrame => .request (reqWord 0x5 false false 0 0)
  | .decodePingResponse => .request (reqWord 0x6 false false 0 0)
  | .encodeCommand kind hasData pcount => .request (reqWord 0x7 false hasData kind pcount)
  | .decodeCommand => .request (reqWord 0x8 false false 0 0)
  | .decodeGenericResponse => .request (reqWord 0x9 false false 0 0)
  | .decodeAck => .request (reqWord 0xA false false 0 0)
  | .reservedOpB => .request (reqWord 0xB false false 0 0)
  | .reservedOpC => .request (reqWord 0xC false false 0 0)
  | .reservedOpD => .request (reqWord 0xD false false 0 0)
  | .reservedOpE => .request (reqWord 0xE false false 0 0)
  | .reservedOpF => .request (reqWord 0xF false false 0 0)
  | .wireBareFrame kind => .frame .bareFrame (bareFrameBytes kind)
  | .wirePingRequest => .frame .pingRequest (bareFrameBytes frameKindPing)
  | .wireAck => .frame .ack (bareFrameBytes Config.cce.frameKindAck)
  | .wireNak => .frame .nak (bareFrameBytes Config.cce.frameKindNak)
  | .wirePayloadFrame kind payload => .frame .payloadFrame (payloadFrameBytes kind payload)
  | .wireCommandFrame cmdKind hasData params => .frame .commandFrame (commandFrameBytes cmdKind hasData params)
  | .wireGenericResponse flag rsvd statusCode echoedKind =>
    .frame .genericResponse
      (genericResponseBytes Config.cce.cmdKindResponseGeneric flag rsvd statusCode echoedKind)
  | .wirePingResponse patch minor major byte5 byte6 byte7 =>
    .frame .pingResponse (pingResponseBytes patch minor major byte5 byte6 byte7)

/-! ## A word of the opcode table -/

/-- The most specific wire form of a byte string, for a string whose form nobody names (log 6). -/
def wireFormOf (b : List Byte) : WireForm :=
  match b with
  | [_, k] =>
    if k = frameKindPing then .pingRequest
    else if k = Config.cce.frameKindAck then .ack
    else if k = Config.cce.frameKindNak then .nak
    else .bareFrame
  | _ =>
    if (wireFields .pingResponse b).isSome then .pingResponse
    else if (wireFields .genericResponse b).isSome then .genericResponse
    else if (wireFields .commandFrame b).isSome then .commandFrame
    else .payloadFrame

/-- The `n` bytes of a number, the most significant first: a wire row of the table is written with byte 0 in its
highest bits (log 6). -/
def wireBytesOf : Nat → Nat → List Byte
  | 0, _ => []
  | n + 1, w => BitVec.ofNat 8 (w / 256 ^ n) :: wireBytesOf n w

/-- What a word of the table is, laid out as the hardware takes it: a 32-bit row is a request word, any other row a
wire format. -/
def presentedOf (nbits w : Nat) : Presented :=
  if nbits = 32 then .request (BitVec.ofNat 32 w)
  else .frame (wireFormOf (wireBytesOf (nbits / 8) w)) (wireBytesOf (nbits / 8) w)

/-- The instruction the decoder reads from a word of the opcode table. -/
def decodeTableWord (nbits w : Nat) : Option Instr :=
  match decode (presentedOf nbits w) with
  | .ok instr => some instr
  | .error _ => none

end Sys2Proof
end

