-- ==== Sys2Proof/Machine/State.lean ====
section
/-! DEFINITION. The state of the block (10_state.md R20, R21) and beside it the caller's side of the interface: the
steps the caller has not taken yet (70_reset_and_hazards.md R234) and the values it has read. -/

namespace Sys2Proof.Machine

/-- The registers of the register table (R21), by name. -/
inductive Reg where
  | req
  | inBuf
  | inLen
  | param (k : Fin 7)
  | status
  | out
  | outLen
  | rCrc
  | rKind
  | rLen
  | rFcrc
  | rPatch
  | rMinor
  | rMajor
  | rOptions
  | rCmdKind
  | rCmdFlag
  | rCmdRsvd
  | rCmdPcount
  | rParam (k : Fin 7)
  | rStatusCode
  | rEchoedKind
  | rAck
  | crcAcc
  deriving DecidableEq, Repr

/-- Why the machine stops with a fault. Both are the spec's own model faults, not status codes (R203). -/
inductive Fault where
  /-- `ReadUnwritten` (R30): an operation needs an input register that nothing has written, or the caller reads a
  result register that the last operation did not write. Raised by `start`, by every operation that reads IN or
  PARAM, and by a caller's read. Safe: the spec's own verdict, a real block would return some value. -/
  | readUnwritten (r : Reg)
  /-- `InOutOfRange` (R51): a read of IN at an index that is not below IN_LEN. Raised by `inRead`; no operation's rule
  performs such a read. Safe: the machine stops where the spec gives no value. -/
  | inOutOfRange (index : Nat)
  deriving DecidableEq, Repr

/-- Why the machine gives a step no meaning. None of these is an operation's: they refuse a caller's reference to a
register that the register table does not allow. -/
inductive Refusal where
  /-- An instruction with no meaning yet. Raised by no arm of `exec`. Safe: nothing is claimed of it. -/
  | notModelled (mnemonic : String)
  /-- The caller names an unassigned register number (R21, 93 I13). Raised by a caller's read or write. Safe: the spec
  refuses the reference. -/
  | noSuchRegister (number : Nat)
  /-- The caller reads a register that the access column of R21 gives it no read of. Raised by a caller's read. Safe:
  the spec forbids the read. -/
  | notReadableByCaller (number : Nat)
  /-- The caller writes a register that the access column of R21 gives it no write of. Raised by a caller's write.
  Safe: the spec forbids the write. -/
  | notWritableByCaller (number : Nat)
  /-- The caller writes a value that is not of the width R21 gives the register. Raised by a caller's write. Safe: no
  such transfer exists without a bus binding (92 D2). -/
  | valueDoesNotFit (number : Nat)
  deriving DecidableEq, Repr

/-- The value of a register, at the widths of R21. -/
inductive RegValue where
  | bit (v : Bool)
  | u8 (v : Byte)
  | u16 (v : Half)
  | u32 (v : Word)
  | bytes (v : List Byte)
  | count (v : Nat)
  deriving DecidableEq, Repr

/-- One step of the caller (R234, R242), or a reset of the block from outside (R231). -/
inductive CallerStep where
  /-- Write a value to the register of a number of R21. -/
  | write (number : Nat) (v : RegValue)
  /-- Write a byte string that is a frame of a wire form to IN (R77). -/
  | present (form : WireForm) (bytes : List Byte)
  /-- Start the operation that REQ selects (R234). -/
  | start
  /-- Read the register of a number of R21. -/
  | read (number : Nat)
  /-- Reset of the block, an event from outside that no request word causes (R231). -/
  | reset
  deriving DecidableEq, Repr

/-- The result registers (R20 group b): the block writes them and the caller reads them. Each is either unwritten or
holds a value of its width (R30). OUT_LEN is the length of OUT (R27) and has no storage of its own. -/
structure Results where
  status : Option Byte
  out : Option (List Byte)
  rCrc : Option Half
  rKind : Option Byte
  rLen : Option Half
  rFcrc : Option Half
  rPatch : Option Byte
  rMinor : Option Byte
  rMajor : Option Byte
  rOptions : Option Half
  rCmdKind : Option Byte
  rCmdFlag : Option Byte
  rCmdRsvd : Option Byte
  rCmdPcount : Option Byte
  rParam : Vector (Option Word) 7
  rStatusCode : Option Word
  rEchoedKind : Option Word
  rAck : Option Bool
  deriving DecidableEq, Repr

/-- Every result register unwritten, as after reset (R230) and at the start of an operation (R31). -/
def Results.unwritten : Results where
  status := none
  out := none
  rCrc := none
  rKind := none
  rLen := none
  rFcrc := none
  rPatch := none
  rMinor := none
  rMajor := none
  rOptions := none
  rCmdKind := none
  rCmdFlag := none
  rCmdRsvd := none
  rCmdPcount := none
  rParam := Vector.replicate 7 none
  rStatusCode := none
  rEchoedKind := none
  rAck := none

/-- The state. The first six fields are the block's (R20); the last two are the caller's and the model's own
(log 4). -/
structure State where
  /-- REQ, the request word (R23). -/
  req : Option Word
  /-- IN, the input byte string (R24). IN_LEN is its length and has no storage of its own. -/
  inBuf : Option (List Byte)
  /-- PARAM[0] to PARAM[6] (R25). -/
  param : Vector (Option Word) 7
  /-- The result registers (R26 to R28). -/
  res : Results
  /-- CRC_ACC, which always holds a value (R29, R30). -/
  crcAcc : Half
  /-- The caller's steps not taken yet, the next one first (R61, R234). -/
  todo : List CallerStep
  /-- The values the caller has read, the oldest first (R237). -/
  got : List RegValue
  deriving DecidableEq, Repr

/-- The block after reset (R230): CRC_ACC holds the seed and every other register is unwritten. The caller has
nothing to do and has read nothing (log 4). -/
def State.reset : State where
  req := none
  inBuf := none
  param := Vector.replicate 7 none
  res := Results.unwritten
  crcAcc := 0x0000
  todo := []
  got := []

end Sys2Proof.Machine
end

