-- ==== Sys2Proof/Machine/Ops.lean ====
section
/-! DEFINITION. The named operations over registers and buffers (00_scope.md R10): how an operation begins and ends,
reads IN and PARAM, writes OUT and raises an error, and what a caller may read and write. -/

namespace Sys2Proof.Machine

/-- What every meaning answers. -/
abbrev Answer := Host.Outcome State Fault Refusal

/-! ## The end of an operation (R26, R31, R200) -/

/-- The operation completes: it leaves `written` beside STATUS = OK. The meaning names the written registers on top of
`Results.unwritten`, since every result register was cleared at the start (R28, R31). -/
def State.complete (s : State) (written : Results) : State :=
  { s with res := { written with status := some (statusByte .ok) } }

/-- `raise E` (R10, R200), the block's only way to report an error: STATUS holds the code, every other result register
is unwritten, CRC_ACC and the input registers keep their values. There is no trap and nothing to return from
(R205). -/
def State.raise (s : State) (e : StatusCode) : State :=
  { s with res := { Results.unwritten with status := some (statusByte e) } }

/-- A pure codec function's verdict becomes the operation's end: its result is written, or its code is raised. -/
def State.conclude {α : Type} (s : State) (verdict : Except StatusCode α) (written : α → Results) : State :=
  match verdict with
  | .ok a => s.complete (written a)
  | .error e => s.raise e

/-- `OutWrite(b)` (R10, R52): the whole output buffer at once; OUT_LEN is its length. -/
def outWrite (b : List Byte) : Results := { Results.unwritten with out := some b }

/-- The end of an operation whose request word is illegal (R83). -/
def illegalOperation (s : State) : Answer := .next (s.raise .illegalOperation)

/-! ## Reading inputs (R24, R25, R30, R51) -/

/-- The operation reads IN: where IN is unwritten that is ReadUnwritten and the operation does not run (R30, R104;
93 I11 treats it as `fault`). -/
def withIn (s : State) (run : List Byte → Answer) : Answer :=
  match s.inBuf with
  | some b => run b
  | none => .fault (.readUnwritten .inBuf)

/-- `InRead(i)` (R10, R51): the byte of IN at index i, defined only below IN_LEN. -/
def inRead (s : State) (index : Nat) (run : Byte → Answer) : Answer :=
  withIn s fun b =>
    match b[index]? with
    | some v => run v
    | none => .fault (.inOutOfRange index)

/-- The first `n` entries of a parameter file, counted from register `k`: the values, or the first register that is
unwritten. -/
def writtenPrefix : List (Option Word) → Nat → Nat → Except Nat (List Word)
  | _, _, 0 => .ok []
  | [], _, _ + 1 => .ok []
  | none :: _, k, _ + 1 => .error k
  | some v :: rest, k, n + 1 =>
    match writtenPrefix rest (k + 1) n with
    | .ok vs => .ok (v :: vs)
    | .error j => .error j

/-- The operation reads PARAM[0] to PARAM[n−1] (R25, R150): where one of them is unwritten that is ReadUnwritten and the
operation does not run (R25, R30, R150; 93 I11 treats it as `fault`). -/
def withParams (s : State) (n : Nat) (run : List Word → Answer) : Answer :=
  match writtenPrefix s.param.toList 0 n with
  | .ok vs => run vs
  | .error k => .fault (.readUnwritten (.param (Fin.ofNat 7 k)))

/-! ## The register table as the caller sees it (R21) -/

/-- The register of a number; numbers 10 to 15, 31, 42 to 47 and 49 upward are unassigned (R21). -/
def regOf : Nat → Option Reg
  | 0 => some .req
  | 1 => some .inBuf
  | 2 => some .inLen
  | 3 => some (.param 0)
  | 4 => some (.param 1)
  | 5 => some (.param 2)
  | 6 => some (.param 3)
  | 7 => some (.param 4)
  | 8 => some (.param 5)
  | 9 => some (.param 6)
  | 16 => some .status
  | 17 => some .out
  | 18 => some .outLen
  | 19 => some .rCrc
  | 20 => some .rKind
  | 21 => some .rLen
  | 22 => some .rFcrc
  | 23 => some .rPatch
  | 24 => some .rMinor
  | 25 => some .rMajor
  | 26 => some .rOptions
  | 27 => some .rCmdKind
  | 28 => some .rCmdFlag
  | 29 => some .rCmdRsvd
  | 30 => some .rCmdPcount
  | 32 => some (.rParam 0)
  | 33 => some (.rParam 1)
  | 34 => some (.rParam 2)
  | 35 => some (.rParam 3)
  | 36 => some (.rParam 4)
  | 37 => some (.rParam 5)
  | 38 => some (.rParam 6)
  | 39 => some .rStatusCode
  | 40 => some .rEchoedKind
  | 41 => some .rAck
  | 48 => some .crcAcc
  | _ => none

/-- What a register holds; nothing where it is unwritten (R30). IN_LEN and OUT_LEN are lengths (R24, R27). -/
def regValue (s : State) : Reg → Option RegValue
  | .req => s.req.map .u32
  | .inBuf => s.inBuf.map .bytes
  | .inLen => s.inBuf.map fun b => .count b.length
  | .param k => s.param[k].map .u32
  | .status => s.res.status.map .u8
  | .out => s.res.out.map .bytes
  | .outLen => s.res.out.map fun b => .count b.length
  | .rCrc => s.res.rCrc.map .u16
  | .rKind => s.res.rKind.map .u8
  | .rLen => s.res.rLen.map .u16
  | .rFcrc => s.res.rFcrc.map .u16
  | .rPatch => s.res.rPatch.map .u8
  | .rMinor => s.res.rMinor.map .u8
  | .rMajor => s.res.rMajor.map .u8
  | .rOptions => s.res.rOptions.map .u16
  | .rCmdKind => s.res.rCmdKind.map .u8
  | .rCmdFlag => s.res.rCmdFlag.map .u8
  | .rCmdRsvd => s.res.rCmdRsvd.map .u8
  | .rCmdPcount => s.res.rCmdPcount.map .u8
  | .rParam k => s.res.rParam[k].map .u32
  | .rStatusCode => s.res.rStatusCode.map .u32
  | .rEchoedKind => s.res.rEchoedKind.map .u32
  | .rAck => s.res.rAck.map .bit
  | .crcAcc => some (.u16 s.crcAcc)

/-- The access column of R21, caller's reads: IN_LEN and the result registers; not REQ, IN, PARAM and CRC_ACC. -/
def callerReads : Reg → Bool
  | .req => false
  | .inBuf => false
  | .param _ => false
  | .crcAcc => false
  | _ => true

/-- The caller reads a register by number (R21); an unwritten one is ReadUnwritten (R30, R230; 93 I11 treats it as
`fault`). A read changes nothing of the block (R58). -/
def callerRead (number : Nat) (s : State) : Answer :=
  match regOf number with
  | none => .refused (.noSuchRegister number)
  | some r =>
    if callerReads r then
      match regValue s r with
      | some v => .next { s with got := s.got ++ [v] }
      | none => .fault (.readUnwritten r)
    else .refused (.notReadableByCaller number)

/-- The caller writes IN, and IN_LEN with it (R24): any finite byte string is accepted (R60). -/
def State.writeIn (s : State) (b : List Byte) : State := { s with inBuf := some b }

/-- The access column of R21, caller's writes: REQ, IN and PARAM. Writing REQ starts nothing (R23). -/
def callerWrite (number : Nat) (v : RegValue) (s : State) : Answer :=
  match regOf number, v with
  | none, _ => .refused (.noSuchRegister number)
  | some .req, .u32 w => .next { s with req := some w }
  | some .req, _ => .refused (.valueDoesNotFit number)
  | some .inBuf, .bytes b => .next (s.writeIn b)
  | some .inBuf, _ => .refused (.valueDoesNotFit number)
  | some (.param k), .u32 w => .next { s with param := s.param.set k (some w) }
  | some (.param _), _ => .refused (.valueDoesNotFit number)
  | some _, _ => .refused (.notWritableByCaller number)

end Sys2Proof.Machine
end

