-- ==== Sys2Proof/Machine/CommandOps.lean ====
section
/-! DEFINITION. The Command Codec's operations (42_command.md R150, R151, R153, R154). -/

namespace Sys2Proof.Machine

/-- ENCODE_COMMAND (R150): the count is checked before any PARAM register is read (R203 item 5), and only PARAM[i]
with i below the count is read. -/
def execEncodeCommand (kind : Byte) (hasData : Bool) (pcount : Byte) (s : State) : Answer :=
  if maxParams < pcount.toNat then .next (s.raise .tooManyParameters)
  else withParams s pcount.toNat fun ps => .next (s.conclude (encodeCommand kind hasData ps) outWrite)

/-- What DECODE_COMMAND writes beside STATUS (R28, R151): R_PARAM[i] only for i below the count. -/
def commandResults (r : Command) : Results :=
  { Results.unwritten with
    rKind := some r.frameKind
    rLen := some r.length
    rFcrc := some r.crc
    rCmdKind := some r.kind
    rCmdFlag := some r.flag
    rCmdRsvd := some r.rsvd
    rCmdPcount := some r.count
    rParam := Vector.ofFn fun k => r.params[k.val]? }

/-- DECODE_COMMAND (R151). -/
def execDecodeCommand (s : State) : Answer :=
  withIn s fun b => .next (s.conclude (decodeCommand b) commandResults)

/-- What DECODE_GENERIC_RESPONSE writes beside STATUS (R28, R153). -/
def genericResults (r : Word × Word) : Results :=
  { Results.unwritten with rStatusCode := some r.1, rEchoedKind := some r.2 }

/-- DECODE_GENERIC_RESPONSE (R153), with the configured kind of a generic response. -/
def execDecodeGenericResponse (s : State) : Answer :=
  withIn s fun b =>
    .next (s.conclude (decodeGenericResponse Config.cce.cmdKindResponseGeneric b) genericResults)

/-- The end of DECODE_ACK (R154): R_ACK is written and STATUS is OK. -/
def ackAnswer (s : State) (isAck : Bool) : Answer :=
  .next (s.complete { Results.unwritten with rAck := some isAck })

/-- DECODE_ACK (R154): R_ACK is 1 exactly for the bare frame of kind `FRAME_KIND_ACK`; the bytes are read only where
IN_LEN is 2, and no input is an error. -/
def execDecodeAck (s : State) : Answer :=
  withIn s fun b =>
    if b.length = 2 then
      inRead s 0 fun m => inRead s 1 fun k =>
        ackAnswer s (m == frameMarker && k == Config.cce.frameKindAck)
    else ackAnswer s false

end Sys2Proof.Machine
end

