-- ==== Sys2Proof/Machine/CrcEngine.lean ====
section
/-! DEFINITION. The CRC16 Engine's operations (40_crc.md R103 to R106): the only ones that touch CRC_ACC (R107). -/

namespace Sys2Proof.Machine

/-- CRC_INIT (R103): start a CRC stream. -/
def execCrcInit (s : State) : Answer :=
  .next ({ s with crcAcc := crcSeed }.complete Results.unwritten)

/-- CRC_FEED (R104): fold IN into the stream. -/
def execCrcFeed (s : State) : Answer :=
  withIn s fun b => .next ({ s with crcAcc := crcFold s.crcAcc b }.complete Results.unwritten)

/-- CRC_READ (R105): read out the running CRC, which is not changed. -/
def execCrcRead (s : State) : Answer :=
  .next (s.complete { Results.unwritten with rCrc := some s.crcAcc })

/-- CRC16 (R106): CRC_INIT, CRC_FEED and CRC_READ as one operation. -/
def execCrc16 (s : State) : Answer :=
  withIn s fun b =>
    .next ({ s with crcAcc := crc16 [b] }.complete { Results.unwritten with rCrc := some (crc16 [b]) })

end Sys2Proof.Machine
end

