-- ==== Sys2Proof/Machine/FrameOps.lean ====
section
/-! DEFINITION. The Frame Codec's operations (41_frame.md R120, R121, R124). -/

namespace Sys2Proof.Machine

/-- ENCODE_FRAME (R120): IN is read only where a payload is present. -/
def execEncodeFrame (kind : Byte) (hasPayload : Bool) (s : State) : Answer :=
  if hasPayload then withIn s fun p => .next (s.conclude (encodeFrame kind (some p)) outWrite)
  else .next (s.conclude (encodeFrame kind none) outWrite)

/-- What DECODE_FRAME writes beside STATUS (R28, R121). -/
def frameResults (r : Frame) : Results :=
  { outWrite r.payload with rKind := some r.kind, rLen := some r.length, rFcrc := some r.crc }

/-- DECODE_FRAME (R121). -/
def execDecodeFrame (s : State) : Answer :=
  withIn s fun b => .next (s.conclude (decodeFrame b) frameResults)

/-- What DECODE_PING_RESPONSE writes beside STATUS (R28, R124): R_LEN is not among it. -/
def pingResults (r : PingResponse) : Results :=
  { Results.unwritten with
    rKind := some r.kind
    rFcrc := some r.crc
    rPatch := some r.patch
    rMinor := some r.minor
    rMajor := some r.major
    rOptions := some r.options }

/-- DECODE_PING_RESPONSE (R124), with the configured place of the options field. -/
def execDecodePingResponse (s : State) : Answer :=
  withIn s fun b => .next (s.conclude (decodePingResponse Config.cce.pingOptionsOffset b) pingResults)

end Sys2Proof.Machine
end

