-- ==== Sys2Proof/Machine/ReservedOps.lean ====
section
/-! DEFINITION. The reserved operation codes (30_encoding.md R83): each raises ILLEGAL_OPERATION, writes only STATUS
and leaves CRC_ACC unchanged. -/

namespace Sys2Proof.Machine

/-- OP 0xB (R83). -/
def execReservedOpB (s : State) : Answer := illegalOperation s

/-- OP 0xC (R83). -/
def execReservedOpC (s : State) : Answer := illegalOperation s

/-- OP 0xD (R83). -/
def execReservedOpD (s : State) : Answer := illegalOperation s

/-- OP 0xE (R83). -/
def execReservedOpE (s : State) : Answer := illegalOperation s

/-- OP 0xF (R83). -/
def execReservedOpF (s : State) : Answer := illegalOperation s

end Sys2Proof.Machine
end

