-- ==== Sys2Proof/Machine/WireFrames.lean ====
section
/-! DEFINITION. The wire formats of the opcode table (30_encoding.md R70 to R76) as steps. A format is no operation of
the block (R80); the one thing the spec lets happen with a frame is that the caller gives it to the block as IN (R77,
R86 `in=<bytes>`). That is the effect of each: IN holds exactly the frame's bytes, and no operation starts (R234).
DESIGN CHOICE, log 5. -/

namespace Sys2Proof.Machine

/-- WIRE_BARE_FRAME (R70). -/
def execWireBareFrame (kind : Byte) (s : State) : Answer := .next (s.writeIn (bareFrameBytes kind))

/-- WIRE_PING_REQUEST (R74): the bytes `5A A6`. -/
def execWirePingRequest (s : State) : Answer := .next (s.writeIn (bareFrameBytes frameKindPing))

/-- WIRE_ACK (R75). -/
def execWireAck (s : State) : Answer := .next (s.writeIn (bareFrameBytes Config.cce.frameKindAck))

/-- WIRE_NAK (R75). -/
def execWireNak (s : State) : Answer := .next (s.writeIn (bareFrameBytes Config.cce.frameKindNak))

/-- WIRE_PAYLOAD_FRAME (R71). -/
def execWirePayloadFrame (kind : Byte) (payload : List Byte) (s : State) : Answer :=
  .next (s.writeIn (payloadFrameBytes kind payload))

/-- WIRE_COMMAND_FRAME (R72). -/
def execWireCommandFrame (cmdKind : Byte) (hasData : Bool) (params : List Word) (s : State) : Answer :=
  .next (s.writeIn (commandFrameBytes cmdKind hasData params))

/-- WIRE_GENERIC_RESPONSE (R76). -/
def execWireGenericResponse (flag rsvd : Byte) (statusCode echoedKind : Word) (s : State) : Answer :=
  .next (s.writeIn (genericResponseBytes Config.cce.cmdKindResponseGeneric flag rsvd statusCode echoedKind))

/-- WIRE_PING_RESPONSE (R73). -/
def execWirePingResponse (patch minor major byte5 byte6 byte7 : Byte) (s : State) : Answer :=
  .next (s.writeIn (pingResponseBytes patch minor major byte5 byte6 byte7))

end Sys2Proof.Machine
end

