-- ==== Sys2Proof/Machine/Dispatch.lean ====
section
/-! DEFINITION. One arm per row of the opcode table. -/

namespace Sys2Proof.Machine

def exec (i : Instr) (s : State) : Host.Outcome State Fault Refusal :=
  match i with
  | .crcInit => Sys2Proof.Machine.execCrcInit s
  | .crcFeed => Sys2Proof.Machine.execCrcFeed s
  | .crcRead => Sys2Proof.Machine.execCrcRead s
  | .crc16 => Sys2Proof.Machine.execCrc16 s
  | .encodeFrame kind hasPayload => Sys2Proof.Machine.execEncodeFrame kind hasPayload s
  | .decodeFrame => Sys2Proof.Machine.execDecodeFrame s
  | .decodePingResponse => Sys2Proof.Machine.execDecodePingResponse s
  | .encodeCommand kind hasData pcount => Sys2Proof.Machine.execEncodeCommand kind hasData pcount s
  | .decodeCommand => Sys2Proof.Machine.execDecodeCommand s
  | .decodeGenericResponse => Sys2Proof.Machine.execDecodeGenericResponse s
  | .decodeAck => Sys2Proof.Machine.execDecodeAck s
  | .reservedOpB => Sys2Proof.Machine.execReservedOpB s
  | .reservedOpC => Sys2Proof.Machine.execReservedOpC s
  | .reservedOpD => Sys2Proof.Machine.execReservedOpD s
  | .reservedOpE => Sys2Proof.Machine.execReservedOpE s
  | .reservedOpF => Sys2Proof.Machine.execReservedOpF s
  | .wireBareFrame kind => Sys2Proof.Machine.execWireBareFrame kind s
  | .wirePingRequest => Sys2Proof.Machine.execWirePingRequest s
  | .wireAck => Sys2Proof.Machine.execWireAck s
  | .wireNak => Sys2Proof.Machine.execWireNak s
  | .wirePayloadFrame kind payload => Sys2Proof.Machine.execWirePayloadFrame kind payload s
  | .wireCommandFrame cmdKind hasData params => Sys2Proof.Machine.execWireCommandFrame cmdKind hasData params s
  | .wireGenericResponse flag rsvd statusCode echoedKind => Sys2Proof.Machine.execWireGenericResponse flag rsvd statusCode echoedKind s
  | .wirePingResponse patch minor major byte5 byte6 byte7 => Sys2Proof.Machine.execWirePingResponse patch minor major byte5 byte6 byte7 s

end Sys2Proof.Machine
end

