-- ==== Sys2Proof/Machine/Caller.lean ====
section
/-! DEFINITION. The caller's steps (70_reset_and_hazards.md R231, R234) and the spec's way to write a caller program
(30_encoding.md R86, R87). -/

namespace Sys2Proof.Machine

/-- The `start` step (R234): REQ is read once, an unwritten REQ is ReadUnwritten (R234 item 1, whose treatment in 93 I11
is `fault`), an illegal one raises ILLEGAL_OPERATION, any other runs the operation it selects. -/
def start (s : State) : Answer :=
  match s.req with
  | none => .fault (.readUnwritten .req)
  | some w =>
    match decodeReq w with
    | .ok instr => exec instr s
    | .error _ => illegalOperation s

/-- The caller writes IN with a frame of a form (R77): the wire format runs. A string that is not of the form is a
byte string like any other, and IN takes it (R24, R60). -/
def presentFrame (form : WireForm) (b : List Byte) (s : State) : Answer :=
  match decodeWire form b with
  | .ok instr => exec instr s
  | .error _ => .next (s.writeIn b)

/-- Reset from outside (R230, R231): every register of the block as `State.reset` has it; what the caller has still to
do and has read is the caller's and stays. -/
def resetBlock (s : State) : State := { State.reset with todo := s.todo, got := s.got }

/-- One step of the caller on the block. -/
def takeStep (c : CallerStep) (s : State) : Answer :=
  match c with
  | .write number v => callerWrite number v s
  | .present form b => presentFrame form b s
  | .start => start s
  | .read number => callerRead number s
  | .reset => .next (resetBlock s)

/-- The machine's next step: the caller's next one, in the caller's order (R61). A block that nobody starts stays idle
and nothing changes (R235). -/
def nextStep (s : State) : Answer :=
  match s.todo with
  | [] => .next s
  | c :: rest => takeStep c { s with todo := rest }

/-- What is presented becomes the caller's next step: a request word is put in REQ and started, a frame is given as
IN. -/
def State.withPresented (s : State) : Presented → State
  | .request w => { s with req := some w, todo := .start :: s.todo }
  | .frame form b => { s with todo := .present form b :: s.todo }

/-! ## Caller programs (R86, R87) -/

/-- One line of a caller program: an operation with its operands (R86), where an `in` that is left out leaves IN as it
is; or a pseudo-operation (R87). -/
inductive Line where
  | crcInit
  | crcFeed (input : Option (List Byte))
  | crcRead
  | crc16 (input : Option (List Byte))
  | encodeFrame (kind : Byte) (payload : Option (List Byte))
  | decodeFrame (input : Option (List Byte))
  | decodePingResponse (input : Option (List Byte))
  | encodeCommand (kind : Byte) (data : Bool) (params : List Word)
  | decodeCommand (input : Option (List Byte))
  | decodeGenericResponse (input : Option (List Byte))
  | decodeAck (input : Option (List Byte))
  | pingRequest
  | ack
  | nak
  | crc16Spans (spans : List (List Byte))
  deriving DecidableEq, Repr

/-- The caller writes REQ with an operation's word and starts it. -/
def issue (instr : Instr) : List CallerStep :=
  match encode instr with
  | .request w => [.write 0 (.u32 w), .start]
  | .frame form b => [.present form b]

/-- `in=<bytes>` (R86): the caller writes IN before starting the operation. -/
def writeInput : Option (List Byte) → List CallerStep
  | some b => [.write 1 (.bytes b)]
  | none => []

/-- `params=[p0, …]` (R86): PARAM[0], PARAM[1], … are written in order, the first from register number 3 on. -/
def writeParams : Nat → List Word → List CallerStep
  | _, [] => []
  | number, p :: ps => .write number (.u32 p) :: writeParams (number + 1) ps

/-- `CRC_FEED in=s1; …; CRC_FEED in=sk` (R87). -/
def feedSpans : List (List Byte) → List CallerStep
  | [] => []
  | b :: rest => writeInput (some b) ++ issue .crcFeed ++ feedSpans rest

/-- The caller's steps of a line (R86, R87). -/
def assemble : Line → List CallerStep
  | .crcInit => issue .crcInit
  | .crcFeed input => writeInput input ++ issue .crcFeed
  | .crcRead => issue .crcRead
  | .crc16 input => writeInput input ++ issue .crc16
  | .encodeFrame kind payload => writeInput payload ++ issue (.encodeFrame kind payload.isSome)
  | .decodeFrame input => writeInput input ++ issue .decodeFrame
  | .decodePingResponse input => writeInput input ++ issue .decodePingResponse
  | .encodeCommand kind data params =>
    writeParams 3 params ++ issue (.encodeCommand kind data (BitVec.ofNat 8 params.length))
  | .decodeCommand input => writeInput input ++ issue .decodeCommand
  | .decodeGenericResponse input => writeInput input ++ issue .decodeGenericResponse
  | .decodeAck input => writeInput input ++ issue .decodeAck
  | .pingRequest => issue (.encodeFrame frameKindPing false)
  | .ack => issue (.encodeFrame Config.cce.frameKindAck false)
  | .nak => issue (.encodeFrame Config.cce.frameKindNak false)
  | .crc16Spans spans => issue .crcInit ++ feedSpans spans ++ issue .crcRead

end Sys2Proof.Machine
end

