-- ==== Sys2Proof/Machine/Step.lean ====
section
/-! DEFINITION. One step of the machine, and how a word of the opcode table comes to be its next instruction. -/

namespace Sys2Proof.Machine

/-- One step (R234, R235, R242): the caller's next step on the block. -/
def step (s : State) : Host.Outcome State Fault Refusal := nextStep s

/-- The state whose next step runs the instruction of a word of the opcode table (log 6): a request word stands in
REQ and `start` is the caller's next step; a frame is what the caller gives next as IN. -/
def State.withFetchWord (s : State) (nbits w : Nat) : State := s.withPresented (presentedOf nbits w)

end Sys2Proof.Machine
end

