-- ==== Sys2Proof/Safety.lean ====
section
/-! DEFINITION. The terms claims are stated in: which instructions are operations, what each writes (10_state.md R28),
the invariant of the result registers, and single-bit changes of a byte string (41_frame.md R123). -/

namespace Sys2Proof

open Machine

/-- The rows of the table that are started by a request word, the reserved codes among them; the others are wire
formats (30_encoding.md R80). -/
def Instr.isOperation (instr : Instr) : Bool :=
  match encode instr with
  | .request _ => true
  | .frame _ _ => false

/-- The four operations that use CRC_ACC (R103 to R106). -/
def Instr.isCrcOperation : Instr → Bool
  | .crcInit => true
  | .crcFeed => true
  | .crcRead => true
  | .crc16 => true
  | _ => false

/-- The illegal request words of R83: a reserved operation code, or a reserved field that is not 0. -/
abbrev illegalWord (w : Word) : Prop :=
  0xB ≤ (w.extractLsb' 0 4).toNat ∨ w.extractLsb' 6 2 ≠ 0 ∨ w.extractLsb' 24 8 ≠ 0

/-- A byte string with bit `bit` of the byte at index `index` changed (R123). -/
def flipBit (b : List Byte) (index bit : Nat) : List Byte :=
  b.modify index fun v => v ^^^ (1#8 <<< bit)

end Sys2Proof

namespace Sys2Proof.Machine

/-- The result registers, and nothing else, with only STATUS written (R200). -/
def onlyStatus (code : Byte) : Results := { Results.unwritten with status := some code }

/-- The next state of an answer under a change of state; a stop stays as it is. -/
def onNext (change : State → State) : Answer → Answer
  | .next t => .next (change t)
  | .fault f => .fault f
  | .refused r => .refused r

/-- The result registers of R20 group b by name. -/
def isResultReg : Reg → Bool
  | .req => false
  | .inBuf => false
  | .inLen => false
  | .param _ => false
  | .crcAcc => false
  | _ => true

/-- The table of R28: what an operation writes on OK besides STATUS and R_PARAM, which has a condition of its own. -/
def writtenOnOk : Instr → List Reg
  | .crcInit => [.crcAcc]
  | .crcFeed => [.crcAcc]
  | .crcRead => [.rCrc]
  | .crc16 => [.crcAcc, .rCrc]
  | .encodeFrame _ _ => [.out, .outLen]
  | .decodeFrame => [.rKind, .rLen, .rFcrc, .out, .outLen]
  | .decodePingResponse => [.rKind, .rFcrc, .rPatch, .rMinor, .rMajor, .rOptions]
  | .encodeCommand _ _ _ => [.out, .outLen]
  | .decodeCommand => [.rKind, .rLen, .rFcrc, .rCmdKind, .rCmdFlag, .rCmdRsvd, .rCmdPcount]
  | .decodeGenericResponse => [.rStatusCode, .rEchoedKind]
  | .decodeAck => [.rAck]
  | _ => []

/-- The table of R202: the codes an operation can leave in STATUS. -/
def possibleStatus : Instr → List Byte
  | .crcInit => [0x00]
  | .crcFeed => [0x00]
  | .crcRead => [0x00]
  | .crc16 => [0x00]
  | .encodeFrame _ _ => [0x00, 0x04]
  | .decodeFrame => [0x00, 0x01]
  | .decodePingResponse => [0x00, 0x01]
  | .encodeCommand _ _ _ => [0x00, 0x02]
  | .decodeCommand => [0x00, 0x01]
  | .decodeGenericResponse => [0x00, 0x01, 0x03]
  | .decodeAck => [0x00]
  | .reservedOpB => [0x05]
  | .reservedOpC => [0x05]
  | .reservedOpD => [0x05]
  | .reservedOpE => [0x05]
  | .reservedOpF => [0x05]
  | _ => []

/-- What the result registers always satisfy together, from R28, R200 and R201: STATUS holds a code of the table; where
it does not hold OK nothing else is written; OUT is no longer than the longest frame; R_LEN is the length of a decoded
payload in OUT; a decoded command has a count of at most 7, the length that count gives, and exactly the parameters
below it; R_KIND and R_FCRC are written together. -/
def resultsOk (r : Results) : Prop :=
  (∀ c, r.status = some c → c.toNat ≤ 5) ∧
  (r.status ≠ some 0x00 → r = { Results.unwritten with status := r.status }) ∧
  (∀ b, r.out = some b → b.length ≤ 65541) ∧
  (∀ b n, r.out = some b → r.rLen = some n → n.toNat = b.length) ∧
  (∀ n, r.rCmdPcount = some n → n.toNat ≤ 7 ∧ r.rLen = some (BitVec.ofNat 16 (4 + 4 * n.toNat))) ∧
  (∀ k : Fin 7, r.rParam[k].isSome = true ↔ ∃ n, r.rCmdPcount = some n ∧ k.val < n.toNat) ∧
  (r.rKind.isSome = r.rFcrc.isSome)

/-- The invariant of the machine. -/
def State.inv (s : State) : Prop := resultsOk s.res

/-- The clause every operation's rule gives for its reserved request bits (R83, R103 to R154 "Status raised"): `start` of
a word with this operation code and a reserved field that is not 0 raises ILLEGAL_OPERATION, and nothing else
changes. -/
def illegalOnReservedBits (op : BitVec 4) : Prop :=
  ∀ (s : State) (rest : List CallerStep) (w : Word), s.todo = .start :: rest → s.req = some w → reqOp w = op →
    reqRsvd0 w ≠ 0 ∨ reqRsvd1 w ≠ 0 → step s = .next { s with todo := rest, res := onlyStatus 0x05 }

/-- `b` is a payload frame with these fields: marker, kind, length, CRC over the first four bytes and the payload, and
no bytes missing or left over (R71, R121). -/
def isFrame (b : List Byte) (kind : Byte) (length crc : Half) (payload : List Byte) : Prop :=
  ∃ l0 l1 c0 c1 : Byte, b = [0x5A, kind, l0, l1, c0, c1] ++ payload ∧ length = le16 l0 l1 ∧ crc = le16 c0 c1 ∧
    6 + length.toNat = b.length ∧ crc16 [[0x5A, kind, l0, l1], payload] = crc

/-- `b` is a frame of any kind whose payload is a command with these fields: a count of at most 7, a payload of
`4 + 4·count` bytes, and the parameter words in little-endian order (R72, R151). -/
def isCommand (b : List Byte) (frameKind : Byte) (length crc : Half) (kind flag rsvd count : Byte)
    (params : List Word) : Prop :=
  ∃ payload body : List Byte, isFrame b frameKind length crc payload ∧ payload = [kind, flag, rsvd, count] ++ body ∧
    count.toNat ≤ 7 ∧ payload.length = 4 + 4 * count.toNat ∧ params.length = count.toNat ∧
    ∀ k < count.toNat, ∃ b0 b1 b2 b3 : Byte, body[4 * k]? = some b0 ∧ body[4 * k + 1]? = some b1 ∧
      body[4 * k + 2]? = some b2 ∧ body[4 * k + 3]? = some b3 ∧ params[k]? = some (le32 b0 b1 b2 b3)

/-- The first words of a parameter file hold these values (R25): what ENCODE_COMMAND needs of PARAM (R150). -/
def paramsHold (ps : Vector (Option Word) 7) (vs : List Word) : Prop :=
  ∀ k : Fin 7, k.val < vs.length → ps[k] = vs[k.val]?

/-- A parameter file with a list of values in its first registers and the others unwritten (R28). -/
def paramFile (vs : List Word) : Vector (Option Word) 7 :=
  Vector.ofFn fun k => vs[k.val]?

/-- The operations that read IN (R82). -/
def readsIn : Instr → Bool
  | .crcFeed => true
  | .crc16 => true
  | .encodeFrame _ hasPayload => hasPayload
  | .decodeFrame => true
  | .decodePingResponse => true
  | .decodeCommand => true
  | .decodeGenericResponse => true
  | .decodeAck => true
  | _ => false

/-- The parameter registers an operation reads (R82): those below PCOUNT, where that is at most 7. -/
def readsParam : Instr → Nat
  | .encodeCommand _ _ pcount => if pcount.toNat ≤ 7 then pcount.toNat else 0
  | _ => 0

/-! ## IN and OUT as cells

The spec's two address spaces are byte strings (20_memory.md R50). Seen as addresses and bytes they are always in one
canonical form: addresses from 0 upward, each once; an unlisted address reads as nothing. -/

/-- The cells of a byte string, the first at address `base`. -/
def cellsFrom (base : Nat) : List Byte → List Host.Cell
  | [] => []
  | v :: rest => (base, v) :: cellsFrom (base + 1) rest

/-- The canonical form: addresses strictly rising. -/
def Memory.wf : List Host.Cell → Bool
  | (i, _) :: (j, v) :: rest => decide (i < j) && Memory.wf ((j, v) :: rest)
  | _ => true

/-- The IN space of a state as cells (R50); nothing is listed while IN is unwritten. -/
def inCells (s : State) : List Host.Cell := cellsFrom 0 (s.inBuf.getD [])

/-- The OUT space of a state as cells (R50). -/
def outCells (s : State) : List Host.Cell := cellsFrom 0 (s.res.out.getD [])

end Sys2Proof.Machine
end

