-- ==== Sys2Proof/Certificates/Slice0/Obligations.lean ====
section
/-! DEFINITION. The statements for the provers, in the order of the spec's files. -/

open Sys2Proof Sys2Proof.Machine

/-! ## Encoding (30_encoding.md) -/

/-- Decoding what a well-formed instruction encodes to gives the instruction back, with every operand at every value:
request words (R80, R81, R85) and wire formats (R70 to R76). -/
def Obligations.DecodeOfEncode : Prop :=
  ∀ instr : Instr, instr.wf = true → decode (encode instr) = .ok instr

/-- Every row of the opcode table: a word decodes to the row's operation exactly where its masked bits are the row's
pattern, and the operands are the fields' bits (R80, R81, R84). -/
def Obligations.WordsMatchTheOpcodeTable : Prop :=
  ∀ w : Word,
    (decodeReq w = .ok .crcInit ↔ w &&& 0xFF0000CF = 0x00000000) ∧
    (decodeReq w = .ok .crcFeed ↔ w &&& 0xFF0000CF = 0x00000001) ∧
    (decodeReq w = .ok .crcRead ↔ w &&& 0xFF0000CF = 0x00000002) ∧
    (decodeReq w = .ok .crc16 ↔ w &&& 0xFF0000CF = 0x00000003) ∧
    (∀ (kind : Byte) (hasPayload : Bool), decodeReq w = .ok (.encodeFrame kind hasPayload) ↔
      w &&& 0xFF0000CF = 0x00000004 ∧ kind = w.extractLsb' 8 8 ∧ hasPayload = w.getLsbD 4) ∧
    (decodeReq w = .ok .decodeFrame ↔ w &&& 0xFF0000CF = 0x00000005) ∧
    (decodeReq w = .ok .decodePingResponse ↔ w &&& 0xFF0000CF = 0x00000006) ∧
    (∀ (kind : Byte) (hasData : Bool) (pcount : Byte), decodeReq w = .ok (.encodeCommand kind hasData pcount) ↔
      w &&& 0xFF0000CF = 0x00000007 ∧ kind = w.extractLsb' 8 8 ∧ hasData = w.getLsbD 5 ∧
        pcount = w.extractLsb' 16 8) ∧
    (decodeReq w = .ok .decodeCommand ↔ w &&& 0xFF0000CF = 0x00000008) ∧
    (decodeReq w = .ok .decodeGenericResponse ↔ w &&& 0xFF0000CF = 0x00000009) ∧
    (decodeReq w = .ok .decodeAck ↔ w &&& 0xFF0000CF = 0x0000000A) ∧
    (decodeReq w = .ok .reservedOpB ↔ w &&& 0x0000000F = 0x0000000B) ∧
    (decodeReq w = .ok .reservedOpC ↔ w &&& 0x0000000F = 0x0000000C) ∧
    (decodeReq w = .ok .reservedOpD ↔ w &&& 0x0000000F = 0x0000000D) ∧
    (decodeReq w = .ok .reservedOpE ↔ w &&& 0x0000000F = 0x0000000E) ∧
    (decodeReq w = .ok .reservedOpF ↔ w &&& 0x0000000F = 0x0000000F)

/-- A few words and frames written in the spec (30 R86, R87; 95 L1, L2) decode to what they stand for. -/
def Obligations.SpecWordsDecode : Prop :=
  decodeReq 0x0000A604 = .ok (.encodeFrame 0xA6 false) ∧
  decodeReq 0x0000A414 = .ok (.encodeFrame 0xA4 true) ∧
  decodeReq 0x00000B07 = .ok (.encodeCommand 0x0B false 0) ∧
  decodeReq 0x00020327 = .ok (.encodeCommand 0x03 true 2) ∧
  decodeReq 0x00FFFF05 = .ok .decodeFrame ∧
  decodeReq 0x0000000C = .ok .reservedOpC ∧
  decodeReq 0x00000040 = .error .rsvd0NotZero ∧
  decodeReq 0x80000004 = .error .rsvd1NotZero ∧
  decodeWire .pingRequest [0x5A, 0xA6] = .ok .wirePingRequest ∧
  decodeWire .pingResponse [0x5A, 0xA7, 0x00, 0x02, 0x01, 0x50, 0x00, 0x00, 0xAA, 0xEA] =
    .ok (.wirePingResponse 0x00 0x02 0x01 0x50 0x00 0x00) ∧
  decodeWire .commandFrame [0x5A, 0xA4, 0x04, 0x00, 0x6F, 0x46, 0x0B, 0x00, 0x00, 0x00] =
    .ok (.wireCommandFrame 0x0B false [])

/-- R82: an operation reads only the request fields and input registers its row lists. Words that agree on those
fields (and on the reserved ones) decode alike; an operation that does not list IN runs the same whatever IN holds,
unwritten or not; and the same of every PARAM register it does not list. -/
def Obligations.OperationsReadOnlyTheirFields : Prop :=
  (∀ w w' : Word, reqOp w ≠ 0x4 → reqOp w ≠ 0x7 → w &&& 0xFF0000CF = w' &&& 0xFF0000CF →
    decodeReq w = decodeReq w') ∧
  (∀ w w' : Word, reqOp w = 0x4 → w &&& 0xFF00FFDF = w' &&& 0xFF00FFDF → decodeReq w = decodeReq w') ∧
  (∀ w w' : Word, reqOp w = 0x7 → w &&& 0xFFFFFFEF = w' &&& 0xFFFFFFEF → decodeReq w = decodeReq w') ∧
  (∀ (instr : Instr) (s : State) (other : Option (List Byte)), instr.isOperation = true → readsIn instr = false →
    exec instr { s with inBuf := other } = onNext (fun t => { t with inBuf := other }) (exec instr s)) ∧
  (∀ (instr : Instr) (s : State) (other : Vector (Option Word) 7), instr.isOperation = true →
    (∀ k : Fin 7, k.val < readsParam instr → other[k] = s.param[k]) →
    exec instr { s with param := other } = onNext (fun t => { t with param := other }) (exec instr s))

/-- R83: starting an illegal request word writes STATUS = ILLEGAL_OPERATION, leaves every other result register
unwritten, and changes neither CRC_ACC nor an input register. -/
def Obligations.IllegalWordsRaise : Prop :=
  ∀ (s : State) (rest : List CallerStep) (w : Word), s.todo = .start :: rest → s.req = some w → illegalWord w →
    step s = .next { s with todo := rest, res := onlyStatus 0x05 }

/-- The reserved operation codes of R80 complete everywhere, by raising ILLEGAL_OPERATION. -/
def Obligations.ReservedOpsComplete : Prop :=
  ∀ s : State,
    exec .reservedOpB s = .next { s with res := onlyStatus 0x05 } ∧
    exec .reservedOpC s = .next { s with res := onlyStatus 0x05 } ∧
    exec .reservedOpD s = .next { s with res := onlyStatus 0x05 } ∧
    exec .reservedOpE s = .next { s with res := onlyStatus 0x05 } ∧
    exec .reservedOpF s = .next { s with res := onlyStatus 0x05 }

/-- The step of each wire format: IN holds exactly the bytes R70 to R76 lay out, and nothing else changes. That a
format runs as a write of IN is the model's choice (log 5); the bytes are the spec's. -/
def Obligations.WireFramesBecomeInput : Prop :=
  ∀ s : State,
    (∀ kind : Byte, exec (.wireBareFrame kind) s = .next { s with inBuf := some [0x5A, kind] }) ∧
    exec .wirePingRequest s = .next { s with inBuf := some [0x5A, 0xA6] } ∧
    exec .wireAck s = .next { s with inBuf := some [0x5A, Config.cce.frameKindAck] } ∧
    exec .wireNak s = .next { s with inBuf := some [0x5A, Config.cce.frameKindNak] } ∧
    (∀ (kind : Byte) (payload : List Byte) (l c : Half), l = BitVec.ofNat 16 payload.length →
      c = crc16 [[0x5A, kind] ++ bytesLe16 l, payload] →
      exec (.wirePayloadFrame kind payload) s =
        .next { s with inBuf := some ([0x5A, kind] ++ bytesLe16 l ++ bytesLe16 c ++ payload) }) ∧
    (∀ (cmdKind : Byte) (hasData : Bool) (params : List Word) (payload : List Byte),
      payload = [cmdKind, if hasData then 1 else 0, 0, BitVec.ofNat 8 params.length] ++ params.flatMap bytesLe32 →
      exec (.wireCommandFrame cmdKind hasData params) s = exec (.wirePayloadFrame 0xA4 payload) s) ∧
    (∀ (flag rsvd : Byte) (statusCode echoedKind : Word),
      exec (.wireGenericResponse flag rsvd statusCode echoedKind) s =
        exec (.wirePayloadFrame 0xA4 ([Config.cce.cmdKindResponseGeneric, flag, rsvd, 2] ++ bytesLe32 statusCode
          ++ bytesLe32 echoedKind)) s) ∧
    (∀ patch minor major byte5 byte6 byte7 : Byte,
      exec (.wirePingResponse patch minor major byte5 byte6 byte7) s =
        .next { s with inBuf := some ([0x5A, 0xA7, patch, minor, major, byte5, byte6, byte7]
          ++ bytesLe16 (crc16 [[0x5A, 0xA7, patch, minor, major, byte5, byte6, byte7]])) })

/-- R87: the pseudo-operations expand into the operations and request words the rule gives. -/
def Obligations.PseudoOperationsExpand : Prop :=
  assemble .pingRequest = [.write 0 (.u32 0x0000A604), .start] ∧
  assemble .ack = [.write 0 (.u32 (Config.cce.frameKindAck.setWidth 32 <<< 8 ||| 0x4)), .start] ∧
  assemble .nak = [.write 0 (.u32 (Config.cce.frameKindNak.setWidth 32 <<< 8 ||| 0x4)), .start] ∧
  (∀ spans : List (List Byte), assemble (.crc16Spans spans) =
    [.write 0 (.u32 0x00000000), .start] ++
      spans.flatMap (fun b => [.write 1 (.bytes b), .write 0 (.u32 0x00000001), .start]) ++
      [.write 0 (.u32 0x00000002), .start]) ∧
  (∀ s : State, exec (.encodeFrame 0xA6 false) s =
    .next { s with res := { Results.unwritten with status := some 0x00, out := some [0x5A, 0xA6] } })

/-! ## Byte order (20_memory.md) -/

/-- Multi-byte fields are little-endian (R53): the low byte first, and reading back what was written gives the value. -/
def Obligations.FieldsAreLittleEndian : Prop :=
  (∀ lo hi : Byte, (le16 lo hi).toNat = lo.toNat + 256 * hi.toNat ∧ bytesLe16 (le16 lo hi) = [lo, hi]) ∧
  (∀ b0 b1 b2 b3 : Byte,
    (le32 b0 b1 b2 b3).toNat = b0.toNat + 256 * b1.toNat + 65536 * b2.toNat + 16777216 * b3.toNat ∧
      bytesLe32 (le32 b0 b1 b2 b3) = [b0, b1, b2, b3]) ∧
  (∀ vs : List Word, wordsLe (vs.flatMap bytesLe32) = vs)

/-- R51: a read of IN at an index below IN_LEN gives that byte and any other is InOutOfRange; no operation's rule makes
such a read. -/
def Obligations.NoReadPastTheEndOfIn : Prop :=
  (∀ (s : State) (b : List Byte) (index : Nat) (run : Byte → Answer), s.inBuf = some b →
    (∀ v : Byte, b[index]? = some v → inRead s index run = run v) ∧
      (b.length ≤ index → inRead s index run = .fault (.inOutOfRange index))) ∧
  (∀ (instr : Instr) (s : State) (index : Nat), exec instr s ≠ .fault (.inOutOfRange index))

/-- Every operation but CRC_FEED gives the same results when it is started again on the same inputs (R58), CRC_FEED does
not; and a caller's read changes nothing of the block. -/
def Obligations.RerunGivesTheSame : Prop :=
  (∀ (instr : Instr) (s t : State), instr ≠ .crcFeed → exec instr s = .next t → exec instr t = .next t) ∧
  (∃ s t : State, exec .crcFeed s = .next t ∧ exec .crcFeed t ≠ .next t) ∧
  (∀ (s t : State) (number : Nat) (rest : List CallerStep), s.todo = .read number :: rest → step s = .next t →
    t = { s with todo := rest, got := t.got })

/-! ## State and the steps of the caller (10_state.md, 70_reset_and_hazards.md) -/

/-- R230: after reset CRC_ACC is 0x0000 and every other register of the block is unwritten. -/
def Obligations.ResetLeaves : Prop :=
  State.reset.crcAcc = 0x0000 ∧ State.reset.req = none ∧ State.reset.inBuf = none ∧
  (∀ k : Fin 7, State.reset.param[k] = none) ∧ State.reset.res.status = none ∧ State.reset.res.out = none ∧
  State.reset.res.rCrc = none ∧ State.reset.res.rKind = none ∧ State.reset.res.rLen = none ∧
  State.reset.res.rFcrc = none ∧ State.reset.res.rPatch = none ∧ State.reset.res.rMinor = none ∧
  State.reset.res.rMajor = none ∧ State.reset.res.rOptions = none ∧ State.reset.res.rCmdKind = none ∧
  State.reset.res.rCmdFlag = none ∧ State.reset.res.rCmdRsvd = none ∧ State.reset.res.rCmdPcount = none ∧
  (∀ k : Fin 7, State.reset.res.rParam[k] = none) ∧ State.reset.res.rStatusCode = none ∧
  State.reset.res.rEchoedKind = none ∧ State.reset.res.rAck = none ∧
  (∀ r : Reg, r ≠ .crcAcc → regValue State.reset r = none)

/-- A reset from outside gives every register of the block its reset value, whatever the state (R230, R231); the
caller's side stays (log 4). -/
def Obligations.ResetEventResets : Prop :=
  ∀ (s : State) (rest : List CallerStep), s.todo = .reset :: rest →
    step s = .next { State.reset with todo := rest, got := s.got }

/-- Starting a request word that decodes runs the decoded instruction on the state, with the step taken off the
caller's list (R234). -/
def Obligations.StepRunsTheRequestedOperation : Prop :=
  ∀ (s : State) (rest : List CallerStep) (w : Word) (instr : Instr), s.todo = .start :: rest → s.req = some w →
    decodeReq w = .ok instr → step s = exec instr { s with todo := rest }

/-- Presenting a byte string that decodes as a frame of its form runs the decoded wire format; one that does not is
still written to IN (R24, R60, R77). That a format is a step at all is the model's choice (log 5). -/
def Obligations.StepRunsThePresentedFrame : Prop :=
  ∀ (s : State) (rest : List CallerStep) (form : WireForm) (b : List Byte), s.todo = .present form b :: rest →
    (∀ instr : Instr, decodeWire form b = .ok instr → step s = exec instr { s with todo := rest }) ∧
    (∀ e : DecodeError, decodeWire form b = .error e → step s = .next { s with todo := rest, inBuf := some b }) ∧
    (∀ t : State, step s = .next t → t = { s with todo := rest, inBuf := some b })

/-- R234: the `start` step. An unwritten REQ is ReadUnwritten; the result registers are cleared, so what they held makes
no difference; an illegal REQ raises ILLEGAL_OPERATION; any other performs the operation OP selects; the step ends with
STATUS written. A caller's write of an input register runs no operation. -/
def Obligations.StartStepByStep : Prop :=
  (∀ (s : State) (rest : List CallerStep), s.todo = .start :: rest →
    (s.req = none → step s = .fault (.readUnwritten .req)) ∧
    (∀ r : Results, step { s with res := r } = step s) ∧
    (∀ w : Word, s.req = some w → illegalWord w →
      step s = .next { s with todo := rest, res := onlyStatus 0x05 }) ∧
    (∀ w : Word, s.req = some w → ¬ illegalWord w → step s = exec (operationOf w) { s with todo := rest }) ∧
    (∀ t : State, step s = .next t → t.res.status.isSome = true)) ∧
  (∀ (s t : State) (rest : List CallerStep) (number : Nat) (v : RegValue), s.todo = .write number v :: rest →
    step s = .next t → t.res = s.res ∧ t.crcAcc = s.crcAcc ∧ t.todo = rest)

/-- R235: a block that nobody starts does nothing: with no step of the caller left every run stays where it is, and no
step but `start` (and a reset from outside) changes a result register or CRC_ACC. -/
def Obligations.IdleBlockStaysIdle : Prop :=
  (∀ (s : State) (n : Nat), s.todo = [] → Host.Core.run Sys2Proof.core n s = .next s) ∧
  (∀ (s t : State) (c : CallerStep) (rest : List CallerStep), s.todo = c :: rest → c ≠ .start → c ≠ .reset →
    step s = .next t → t.res = s.res ∧ t.crcAcc = s.crcAcc)

/-- R30: reading what nothing has written is ReadUnwritten: REQ at `start`, IN in an operation that reads it, the first
unwritten PARAM register ENCODE_COMMAND needs, and a result register a caller reads. CRC_ACC always holds a value. -/
def Obligations.UnwrittenReadsFault : Prop :=
  (∀ (s : State) (rest : List CallerStep), s.todo = .start :: rest → s.req = none →
    step s = .fault (.readUnwritten .req)) ∧
  (∀ (instr : Instr) (s : State), readsIn instr = true → s.inBuf = none →
    exec instr s = .fault (.readUnwritten .inBuf)) ∧
  (∀ (s : State) (kind : Byte) (hasData : Bool) (pcount : Byte) (k : Fin 7), pcount.toNat ≤ 7 →
    k.val < pcount.toNat → s.param[k] = none → (∀ j : Fin 7, j.val < k.val → s.param[j] ≠ none) →
    exec (.encodeCommand kind hasData pcount) s = .fault (.readUnwritten (.param k))) ∧
  (∀ (s : State) (rest : List CallerStep) (number : Nat) (r : Reg), s.todo = .read number :: rest →
    regOf number = some r → isResultReg r = true → regValue s r = none →
    step s = .fault (.readUnwritten r)) ∧
  (∀ s : State, regValue s .crcAcc = some (.u16 s.crcAcc))

/-- R31: at the start of every operation every result register becomes unwritten. What they held before makes no
difference to any operation, and CRC_ACC and the input registers are not touched by the clearing. -/
def Obligations.ResultsAreClearedAtStart : Prop :=
  ∀ (instr : Instr) (s : State) (r : Results), instr.isOperation = true →
    exec instr { s with res := r } = exec instr s ∧
    (∀ t : State, exec instr s = .next t →
      t.req = s.req ∧ t.inBuf = s.inBuf ∧ t.param = s.param ∧ (instr.isCrcOperation = false → t.crcAcc = s.crcAcc) ∧
      (∀ x : Reg, isResultReg x = true → (regValue t x).isSome = true →
        x = .status ∨ x ∈ writtenOnOk instr ∨ (instr = .decodeCommand ∧ ∃ k : Fin 7, x = .rParam k)))

/-- R28: what each operation writes. On OK exactly the registers of the table (R_PARAM[i] for i below R_CMD_PCOUNT, by
DECODE_COMMAND alone) besides STATUS; otherwise STATUS only, with CRC_ACC unchanged. ILLEGAL_OPERATION, from a reserved
field of the request word, is the only failure a CRC operation can raise. -/
def Obligations.WrittenRegistersPerOperation : Prop :=
  (∀ op : BitVec 4, op.toNat ≤ 3 → illegalOnReservedBits op) ∧
  ∀ (instr : Instr) (s t : State), instr.isOperation = true → exec instr s = .next t →
    (instr.isCrcOperation = true → t.res.status = some 0x00) ∧
    (t.res.status = some 0x00 →
      (∀ x : Reg, isResultReg x = true → x ≠ .status → (∀ k : Fin 7, x ≠ .rParam k) →
        ((regValue t x).isSome = true ↔ x ∈ writtenOnOk instr)) ∧
      (∀ k : Fin 7, t.res.rParam[k].isSome = true ↔
        instr = .decodeCommand ∧ ∃ n : Byte, t.res.rCmdPcount = some n ∧ k.val < n.toNat) ∧
      (t.crcAcc ≠ s.crcAcc → Reg.crcAcc ∈ writtenOnOk instr)) ∧
    (t.res.status ≠ some 0x00 →
      ∃ code : Byte, t = { s with res := onlyStatus code })

/-- R32: no operation writes REQ, IN or a PARAM register. Nor does one touch the caller's side (log 4). -/
def Obligations.OperationsKeepTheInputs : Prop :=
  ∀ (instr : Instr) (s t : State), instr.isOperation = true → exec instr s = .next t →
    t.req = s.req ∧ t.inBuf = s.inBuf ∧ t.param = s.param ∧ t.todo = s.todo ∧ t.got = s.got

/-- The caller's reads by register number (R21): unassigned numbers are refused, REQ, IN, PARAM and CRC_ACC cannot be
read, and every other register gives the value it holds at its width; IN_LEN and OUT_LEN are lengths (R24, R27). That
a value read goes to the caller's list is the model's choice (log 4). -/
def Obligations.CallerReadsTheRegisterTable : Prop :=
  (∀ (s : State) (rest : List CallerStep) (number : Nat), s.todo = .read number :: rest →
    step s = callerRead number { s with todo := rest }) ∧
  (∀ (s : State) (number : Nat), (10 ≤ number ∧ number ≤ 15) ∨ number = 31 ∨ (42 ≤ number ∧ number ≤ 47) ∨
    49 ≤ number → callerRead number s = .refused (.noSuchRegister number)) ∧
  (∀ (s : State) (number : Nat), number = 0 ∨ number = 1 ∨ (3 ≤ number ∧ number ≤ 9) ∨ number = 48 →
    callerRead number s = .refused (.notReadableByCaller number)) ∧
  (∀ (s : State) (b : List Byte), s.inBuf = some b →
    callerRead 2 s = .next { s with got := s.got ++ [.count b.length] }) ∧
  (∀ (s : State) (b : List Byte), s.res.out = some b →
    callerRead 17 s = .next { s with got := s.got ++ [.bytes b] } ∧
    callerRead 18 s = .next { s with got := s.got ++ [.count b.length] }) ∧
  (∀ (s : State) (v : Byte),
    (s.res.status = some v → callerRead 16 s = .next { s with got := s.got ++ [.u8 v] }) ∧
    (s.res.rKind = some v → callerRead 20 s = .next { s with got := s.got ++ [.u8 v] }) ∧
    (s.res.rPatch = some v → callerRead 23 s = .next { s with got := s.got ++ [.u8 v] }) ∧
    (s.res.rMinor = some v → callerRead 24 s = .next { s with got := s.got ++ [.u8 v] }) ∧
    (s.res.rMajor = some v → callerRead 25 s = .next { s with got := s.got ++ [.u8 v] }) ∧
    (s.res.rCmdKind = some v → callerRead 27 s = .next { s with got := s.got ++ [.u8 v] }) ∧
    (s.res.rCmdFlag = some v → callerRead 28 s = .next { s with got := s.got ++ [.u8 v] }) ∧
    (s.res.rCmdRsvd = some v → callerRead 29 s = .next { s with got := s.got ++ [.u8 v] }) ∧
    (s.res.rCmdPcount = some v → callerRead 30 s = .next { s with got := s.got ++ [.u8 v] })) ∧
  (∀ (s : State) (v : Half),
    (s.res.rCrc = some v → callerRead 19 s = .next { s with got := s.got ++ [.u16 v] }) ∧
    (s.res.rLen = some v → callerRead 21 s = .next { s with got := s.got ++ [.u16 v] }) ∧
    (s.res.rFcrc = some v → callerRead 22 s = .next { s with got := s.got ++ [.u16 v] }) ∧
    (s.res.rOptions = some v → callerRead 26 s = .next { s with got := s.got ++ [.u16 v] })) ∧
  (∀ (s : State) (v : Word),
    (∀ k : Fin 7, s.res.rParam[k] = some v →
      callerRead (32 + k.val) s = .next { s with got := s.got ++ [.u32 v] }) ∧
    (s.res.rStatusCode = some v → callerRead 39 s = .next { s with got := s.got ++ [.u32 v] }) ∧
    (s.res.rEchoedKind = some v → callerRead 40 s = .next { s with got := s.got ++ [.u32 v] })) ∧
  (∀ (s : State) (v : Bool), s.res.rAck = some v →
    callerRead 41 s = .next { s with got := s.got ++ [.bit v] })

/-- The caller's writes by register number (R21): REQ, IN (and IN_LEN with it) and PARAM, and no other. -/
def Obligations.CallerWritesTheRegisterTable : Prop :=
  (∀ (s : State) (rest : List CallerStep) (number : Nat) (v : RegValue), s.todo = .write number v :: rest →
    step s = callerWrite number v { s with todo := rest }) ∧
  (∀ (s : State) (w : Word), callerWrite 0 (.u32 w) s = .next { s with req := some w }) ∧
  (∀ (s : State) (b : List Byte), callerWrite 1 (.bytes b) s = .next { s with inBuf := some b }) ∧
  (∀ (s : State) (w : Word) (k : Fin 7),
    callerWrite (3 + k.val) (.u32 w) s = .next { s with param := s.param.set k (some w) }) ∧
  (∀ (s : State) (v : RegValue) (number : Nat), number = 2 ∨ (16 ≤ number ∧ number ≤ 30) ∨
    (32 ≤ number ∧ number ≤ 41) ∨ number = 48 →
    callerWrite number v s = .refused (.notWritableByCaller number)) ∧
  (∀ (s : State) (v : RegValue) (number : Nat), (10 ≤ number ∧ number ≤ 15) ∨ number = 31 ∨
    (42 ≤ number ∧ number ≤ 47) ∨ 49 ≤ number → callerWrite number v s = .refused (.noSuchRegister number))

/-! ## The CRC16 Engine (40_crc.md) -/

/-- R103: CRC_INIT. -/
def Obligations.CrcInitRuns : Prop :=
  decodeReq 0x00000000 = .ok .crcInit ∧ illegalOnReservedBits 0x0 ∧
  (∀ s : State, exec .crcInit s =
    .next { s with crcAcc := 0x0000, res := { Results.unwritten with status := some 0x00 } })

/-- R104: CRC_FEED. -/
def Obligations.CrcFeedRuns : Prop :=
  decodeReq 0x00000001 = .ok .crcFeed ∧ illegalOnReservedBits 0x1 ∧
  (∀ (s : State) (b : List Byte), s.inBuf = some b → exec .crcFeed s =
    .next { s with crcAcc := b.foldl crcByte s.crcAcc, res := { Results.unwritten with status := some 0x00 } }) ∧
  (∀ s : State, s.inBuf = some [] → exec .crcFeed s =
    .next { s with res := { Results.unwritten with status := some 0x00 } }) ∧
  (∀ s : State, s.inBuf = none → exec .crcFeed s = .fault (.readUnwritten .inBuf)) ∧
  (∀ (s : State) (n : Nat), s.inBuf = some (List.replicate n 0x00) → s.crcAcc = 0x0000 → exec .crcFeed s =
    .next { s with res := { Results.unwritten with status := some 0x00 } }) ∧
  (∃ s t : State, s.crcAcc = 0x0000 ∧ s.inBuf = some [0x01] ∧ exec .crcFeed s = .next t ∧ t.crcAcc = 0x1021 ∧
    exec .crcFeed t ≠ .next t)

/-- R105: CRC_READ. -/
def Obligations.CrcReadRuns : Prop :=
  decodeReq 0x00000002 = .ok .crcRead ∧ illegalOnReservedBits 0x2 ∧
  (∀ s : State, exec .crcRead s =
    .next { s with res := { Results.unwritten with status := some 0x00, rCrc := some s.crcAcc } })

/-- R106: CRC16, which is CRC_INIT, CRC_FEED and CRC_READ run as one. -/
def Obligations.Crc16Runs : Prop :=
  decodeReq 0x00000003 = .ok .crc16 ∧ illegalOnReservedBits 0x3 ∧
  (∀ (s : State) (b : List Byte), s.inBuf = some b →
    exec .crc16 s = .next { s with
      crcAcc := crc16 [b], res := { Results.unwritten with status := some 0x00, rCrc := some (crc16 [b]) } } ∧
    ∃ t u : State, exec .crcInit s = .next t ∧ exec .crcFeed t = .next u ∧ exec .crcRead u = exec .crc16 s)

/-- R87 and R29: the pseudo-operation CRC16_SPANS, run to its end from any state, leaves the CRC of all its spans as one
stream in R_CRC and in CRC_ACC. -/
def Obligations.StreamedSpansGiveTheirCrc : Prop :=
  ∀ (s : State) (spans : List (List Byte)), s.todo = assemble (.crc16Spans spans) →
    ∃ t : State, Host.Core.run Sys2Proof.core (assemble (.crc16Spans spans)).length s = .next t ∧ t.todo = [] ∧
      t.crcAcc = crc16 spans ∧ t.res = { Results.unwritten with status := some 0x00, rCrc := some (crc16 spans) }

/-- R107: the frame and command operations neither read nor write CRC_ACC. -/
def Obligations.CodecOperationsKeepTheStream : Prop :=
  ∀ (instr : Instr) (s t : State) (acc : Half), instr.isOperation = true → instr.isCrcOperation = false →
    exec instr s = .next t →
    t.crcAcc = s.crcAcc ∧ exec instr { s with crcAcc := acc } = .next { t with crcAcc := acc }

/-- R108: splitting does not matter, leading zeros are invisible, a byte step is linear, and every single-bit change is
detected. -/
def Obligations.CrcLaws : Prop :=
  (∀ spans : List (List Byte), crc16 spans = crc16 [spans.flatten]) ∧
  (∀ (n : Nat) (b : List Byte), crc16 [List.replicate n 0x00 ++ b] = crc16 [b]) ∧
  (∀ (acc acc' : Half) (b b' : Byte),
    crcByte (acc ^^^ acc') (b ^^^ b') = crcByte acc b ^^^ crcByte acc' b') ∧
  (∀ (b : List Byte) (index bit : Nat), index < b.length → bit < 8 → crc16 [flipBit b index bit] ≠ crc16 [b])

/-- R109: the two traces of one byte, iteration by iteration. -/
def Obligations.CrcByteTraces : Prop :=
  crcByte 0x0000 0x80 = 0x9188 ∧ crcByte 0x0000 0x5A = 0xFBBF ∧
  (0x0000 : Half) ^^^ ((0x80 : Byte).setWidth 16 <<< 8) = 0x8000 ∧
  (0x0000 : Half) ^^^ ((0x5A : Byte).setWidth 16 <<< 8) = 0x5A00 ∧
  crcStep 0x8000 = 0x1021 ∧ crcStep 0x1021 = 0x2042 ∧ crcStep 0x2042 = 0x4084 ∧ crcStep 0x4084 = 0x8108 ∧
  crcStep 0x8108 = 0x1231 ∧ crcStep 0x1231 = 0x2462 ∧ crcStep 0x2462 = 0x48C4 ∧ crcStep 0x48C4 = 0x9188 ∧
  crcStep 0x5A00 = 0xB400 ∧ crcStep 0xB400 = 0x7821 ∧ crcStep 0x7821 = 0xF042 ∧ crcStep 0xF042 = 0xF0A5 ∧
  crcStep 0xF0A5 = 0xF16B ∧ crcStep 0xF16B = 0xF2F7 ∧ crcStep 0xF2F7 = 0xF5CF ∧ crcStep 0xF5CF = 0xFBBF

/-- R110 and 95 L2.1: the check value, and the CRC of the Reset frame of the source. -/
def Obligations.CrcCheckValues : Prop :=
  crc16 [[0x31, 0x32, 0x33, 0x34, 0x35, 0x36, 0x37, 0x38, 0x39]] = 0x31C3 ∧
  crc16 [[0x31, 0x32], [0x33, 0x34, 0x35, 0x36, 0x37, 0x38, 0x39]] = 0x31C3 ∧
  crc16 [[0x5A, 0xA4, 0x04, 0x00], [0x0B, 0x00, 0x00, 0x00]] = 0x466F ∧
  crc16 [] = 0x0000 ∧ crc16 [[]] = 0x0000

/-! ## The Frame Codec (41_frame.md) -/

/-- R120: ENCODE_FRAME: the bare frame without a payload, whatever IN holds; with one the payload frame, or
PAYLOAD_TOO_LONG above 65535 bytes. -/
def Obligations.EncodeFrameRuns : Prop :=
  (∀ (kind : Byte) (hasPayload : Bool),
    decodeReq (kind.setWidth 32 <<< 8 ||| (BitVec.ofBool hasPayload).setWidth 32 <<< 4 ||| 0x4) =
      .ok (.encodeFrame kind hasPayload)) ∧
  illegalOnReservedBits 0x4 ∧
  (∀ (s : State) (kind : Byte), exec (.encodeFrame kind false) s =
    .next { s with res := { Results.unwritten with status := some 0x00, out := some [0x5A, kind] } }) ∧
  (∀ (s : State) (kind : Byte) (p : List Byte), s.inBuf = some p → 65535 < p.length →
    exec (.encodeFrame kind true) s = .next { s with res := onlyStatus 0x04 }) ∧
  (∀ (s : State) (kind : Byte) (p : List Byte) (l c : Half), s.inBuf = some p → p.length ≤ 65535 →
    l.toNat = p.length → c = crc16 [[0x5A, kind, l.extractLsb' 0 8, l.extractLsb' 8 8], p] →
    exec (.encodeFrame kind true) s =
      .next { s with
        res := { Results.unwritten with
          status := some 0x00
          out := some ([0x5A, kind, l.extractLsb' 0 8, l.extractLsb' 8 8] ++ [c.extractLsb' 0 8, c.extractLsb' 8 8]
            ++ p) } })

/-- R121: DECODE_FRAME gives the fields of a frame, and MALFORMED_FRAME for every byte string that is none. -/
def Obligations.DecodeFrameRuns : Prop :=
  decodeReq 0x00000005 = .ok .decodeFrame ∧ illegalOnReservedBits 0x5 ∧
  (∀ (s : State) (b : List Byte) (kind : Byte) (length crc : Half) (payload : List Byte), s.inBuf = some b →
    isFrame b kind length crc payload →
    exec .decodeFrame s =
      .next { s with
        res := { Results.unwritten with
          status := some 0x00, rKind := some kind, rLen := some length, rFcrc := some crc
          out := some payload } }) ∧
  (∀ (s : State) (b : List Byte), s.inBuf = some b →
    (∀ (kind : Byte) (length crc : Half) (payload : List Byte), ¬ isFrame b kind length crc payload) →
    exec .decodeFrame s = .next { s with res := onlyStatus 0x01 })

/-- R122: decoding what ENCODE_FRAME built gives kind and payload back, for every kind and every payload of at most
65535 bytes; the bare frame of an absent payload is rejected. -/
def Obligations.FrameRoundTrip : Prop :=
  (∀ (s : State) (kind : Byte) (p : List Byte), s.inBuf = some p → p.length ≤ 65535 →
    ∃ (t : State) (f : List Byte), exec (.encodeFrame kind true) s = .next t ∧ t.res.status = some 0x00 ∧
      t.res.out = some f ∧
      ∀ u : State, u.inBuf = some f →
        ∃ v : State, exec .decodeFrame u = .next v ∧ v.res.status = some 0x00 ∧ v.res.rKind = some kind ∧
          v.res.rLen = some (BitVec.ofNat 16 p.length) ∧ v.res.out = some p) ∧
  (∀ (s : State) (kind : Byte), ∃ (t : State) (f : List Byte), exec (.encodeFrame kind false) s = .next t ∧
    t.res.out = some f ∧ f.length = 2 ∧
    ∀ u : State, u.inBuf = some f → exec .decodeFrame u = .next { u with res := onlyStatus 0x01 })

/-- R123: changing exactly one bit of a frame that ENCODE_FRAME produced with a payload makes DECODE_FRAME fail with
MALFORMED_FRAME. -/
def Obligations.FrameSingleBitCorruption : Prop :=
  ∀ (s t u : State) (kind : Byte) (f : List Byte) (index bit : Nat), exec (.encodeFrame kind true) s = .next t →
    t.res.out = some f → index < f.length → bit < 8 → u.inBuf = some (flipBit f index bit) →
    exec .decodeFrame u = .next { u with res := onlyStatus 0x01 }

/-- R124: DECODE_PING_RESPONSE gives the fields of a ten-byte ping response, the options at the configured place, and
MALFORMED_FRAME for every other byte string. -/
def Obligations.DecodePingResponseRuns : Prop :=
  decodeReq 0x00000006 = .ok .decodePingResponse ∧ illegalOnReservedBits 0x6 ∧
  (∀ (s : State) (patch minor major byte5 byte6 byte7 c0 c1 : Byte),
    s.inBuf = some [0x5A, 0xA7, patch, minor, major, byte5, byte6, byte7, c0, c1] →
    crc16 [[0x5A, 0xA7, patch, minor, major, byte5, byte6, byte7]] = le16 c0 c1 →
    exec .decodePingResponse s =
      .next { s with
        res := { Results.unwritten with
          status := some 0x00, rKind := some 0xA7, rFcrc := some (le16 c0 c1)
          rPatch := some patch, rMinor := some minor, rMajor := some major
          rOptions := some (if Config.cce.pingOptionsOffset = .five then le16 byte5 byte6
            else le16 byte6 byte7) } }) ∧
  (∀ (s : State) (b : List Byte), s.inBuf = some b →
    (∀ patch minor major byte5 byte6 byte7 c0 c1 : Byte,
      b = [0x5A, 0xA7, patch, minor, major, byte5, byte6, byte7, c0, c1] →
      crc16 [[0x5A, 0xA7, patch, minor, major, byte5, byte6, byte7]] ≠ le16 c0 c1) →
    exec .decodePingResponse s = .next { s with res := onlyStatus 0x01 })

/-- A ping response presented as a frame (R73) and decoded by the block (R124) gives back the version it was made of.
That the frame comes into IN by a step of the WIRE_PING_RESPONSE row is the model's choice (log 5). -/
def Obligations.PingResponseRoundTrip : Prop :=
  ∀ (s : State) (patch minor major byte5 byte6 byte7 : Byte),
    ∃ t u : State, exec (.wirePingResponse patch minor major byte5 byte6 byte7) s = .next t ∧
      exec .decodePingResponse t = .next u ∧ u.res.status = some 0x00 ∧ u.res.rPatch = some patch ∧
      u.res.rMinor = some minor ∧ u.res.rMajor = some major ∧ u.res.rKind = some 0xA7 ∧ u.crcAcc = s.crcAcc

/-! ## The Command Codec (42_command.md) -/

/-- R150: ENCODE_COMMAND frames the command header and the first PCOUNT parameters, raises TOO_MANY_PARAMETERS above 7
before any PARAM register is read, and does not run where a needed one is unwritten. -/
def Obligations.EncodeCommandRuns : Prop :=
  (∀ (kind : Byte) (hasData : Bool) (pcount : Byte),
    decodeReq (pcount.setWidth 32 <<< 16 ||| kind.setWidth 32 <<< 8 ||| (BitVec.ofBool hasData).setWidth 32 <<< 5
      ||| 0x7) = .ok (.encodeCommand kind hasData pcount)) ∧
  illegalOnReservedBits 0x7 ∧
  (∀ (s : State) (kind : Byte) (hasData : Bool) (pcount : Byte), 7 < pcount.toNat →
    exec (.encodeCommand kind hasData pcount) s = .next { s with res := onlyStatus 0x02 }) ∧
  (∀ (s : State) (kind : Byte) (hasData : Bool) (pcount : Byte) (vs : List Word) (p : List Byte) (l c : Half),
    pcount.toNat ≤ 7 → vs.length = pcount.toNat → paramsHold s.param vs →
    p = [kind, if hasData then 0x01 else 0x00, 0x00, pcount] ++ vs.flatMap bytesLe32 →
    l.toNat = 4 + 4 * pcount.toNat → c = crc16 [[0x5A, 0xA4, l.extractLsb' 0 8, l.extractLsb' 8 8], p] →
    exec (.encodeCommand kind hasData pcount) s =
      .next { s with
        res := { Results.unwritten with
          status := some 0x00
          out := some ([0x5A, 0xA4, l.extractLsb' 0 8, l.extractLsb' 8 8] ++ [c.extractLsb' 0 8, c.extractLsb' 8 8]
            ++ p) } }) ∧
  (∀ (s : State) (kind : Byte) (hasData : Bool) (pcount : Byte) (k : Fin 7), pcount.toNat ≤ 7 →
    k.val < pcount.toNat → s.param[k] = none →
    ∃ j : Fin 7, exec (.encodeCommand kind hasData pcount) s = .fault (.readUnwritten (.param j)))

/-- R151: DECODE_COMMAND gives the fields of a command in a frame of any kind, and MALFORMED_FRAME for every byte string
that holds none. -/
def Obligations.DecodeCommandRuns : Prop :=
  decodeReq 0x00000008 = .ok .decodeCommand ∧ illegalOnReservedBits 0x8 ∧
  (∀ (s : State) (b : List Byte) (frameKind : Byte) (length crc : Half) (kind flag rsvd count : Byte)
    (params : List Word), s.inBuf = some b → isCommand b frameKind length crc kind flag rsvd count params →
    exec .decodeCommand s =
      .next { s with
        res := { Results.unwritten with
          status := some 0x00, rKind := some frameKind, rLen := some length, rFcrc := some crc
          rCmdKind := some kind, rCmdFlag := some flag, rCmdRsvd := some rsvd, rCmdPcount := some count
          rParam := paramFile params } }) ∧
  (∀ (s : State) (b : List Byte), s.inBuf = some b →
    (∀ (frameKind : Byte) (length crc : Half) (kind flag rsvd count : Byte) (params : List Word),
      ¬ isCommand b frameKind length crc kind flag rsvd count params) →
    exec .decodeCommand s = .next { s with res := onlyStatus 0x01 })

/-- R153: DECODE_GENERIC_RESPONSE gives status code and echoed kind of a command of kind ResponseGeneric with exactly two
parameters, UNEXPECTED_RESPONSE_SHAPE for any other command, and MALFORMED_FRAME where there is no command. -/
def Obligations.DecodeGenericResponseRuns : Prop :=
  decodeReq 0x00000009 = .ok .decodeGenericResponse ∧ illegalOnReservedBits 0x9 ∧
  (∀ (s : State) (b : List Byte) (frameKind : Byte) (length crc : Half) (flag rsvd : Byte)
    (statusCode echoedKind : Word), s.inBuf = some b →
    isCommand b frameKind length crc Config.cce.cmdKindResponseGeneric flag rsvd 2 [statusCode, echoedKind] →
    exec .decodeGenericResponse s =
      .next { s with
        res := { Results.unwritten with
          status := some 0x00, rStatusCode := some statusCode, rEchoedKind := some echoedKind } }) ∧
  (∀ (s : State) (b : List Byte) (frameKind : Byte) (length crc : Half) (kind flag rsvd count : Byte)
    (params : List Word), s.inBuf = some b → isCommand b frameKind length crc kind flag rsvd count params →
    kind ≠ Config.cce.cmdKindResponseGeneric ∨ count ≠ 2 →
    exec .decodeGenericResponse s = .next { s with res := onlyStatus 0x03 }) ∧
  (∀ (s : State) (b : List Byte), s.inBuf = some b →
    (∀ (frameKind : Byte) (length crc : Half) (kind flag rsvd count : Byte) (params : List Word),
      ¬ isCommand b frameKind length crc kind flag rsvd count params) →
    exec .decodeGenericResponse s = .next { s with res := onlyStatus 0x01 })

/-- R154: DECODE_ACK gives R_ACK = 1 exactly for the ack frame, 0 for every other input of any length, and STATUS = OK
in every case. -/
def Obligations.DecodeAckRuns : Prop :=
  decodeReq 0x0000000A = .ok .decodeAck ∧ illegalOnReservedBits 0xA ∧
  (∀ (s : State), s.inBuf = some [0x5A, Config.cce.frameKindAck] → exec .decodeAck s =
    .next { s with res := { Results.unwritten with status := some 0x00, rAck := some true } }) ∧
  (∀ (s : State) (b : List Byte), s.inBuf = some b → b ≠ [0x5A, Config.cce.frameKindAck] → exec .decodeAck s =
    .next { s with res := { Results.unwritten with status := some 0x00, rAck := some false } })

/-- A nak frame is not an ack (R154), because a configuration's ack and nak kinds differ (R6, log 3). That the frame
comes into IN by a step of the WIRE_NAK row is the model's choice (log 5). -/
def Obligations.NakIsNoAck : Prop :=
  Config.cce.frameKindAck ≠ Config.cce.frameKindNak ∧
  (∀ s : State, ∃ t u : State, exec .wireNak s = .next t ∧ exec .decodeAck t = .next u ∧
    u.res.status = some 0x00 ∧ u.res.rAck = some false)

/-- R155: decoding what ENCODE_COMMAND built gives the command back; a generic response gives its two parameters. -/
def Obligations.CommandRoundTrip : Prop :=
  ∀ (s : State) (kind : Byte) (hasData : Bool) (pcount : Byte) (vs : List Word), pcount.toNat ≤ 7 →
    vs.length = pcount.toNat → paramsHold s.param vs →
    ∃ (t : State) (f : List Byte), exec (.encodeCommand kind hasData pcount) s = .next t ∧
      t.res.status = some 0x00 ∧ t.res.out = some f ∧
      (∀ u : State, u.inBuf = some f →
        ∃ v : State, exec .decodeCommand u = .next v ∧ v.res.status = some 0x00 ∧ v.res.rKind = some 0xA4 ∧
          v.res.rLen = some (BitVec.ofNat 16 (4 + 4 * pcount.toNat)) ∧ v.res.rCmdKind = some kind ∧
          v.res.rCmdFlag = some (if hasData then 0x01 else 0x00) ∧ v.res.rCmdRsvd = some 0x00 ∧
          v.res.rCmdPcount = some pcount ∧ v.res.rParam = paramFile vs) ∧
      (∀ (u : State) (statusCode echoedKind : Word), u.inBuf = some f →
        kind = Config.cce.cmdKindResponseGeneric → vs = [statusCode, echoedKind] →
        ∃ v : State, exec .decodeGenericResponse u = .next v ∧ v.res.status = some 0x00 ∧
          v.res.rStatusCode = some statusCode ∧ v.res.rEchoedKind = some echoedKind)

/-- R156: a single-bit change to a frame that ENCODE_COMMAND produced makes DECODE_COMMAND and DECODE_GENERIC_RESPONSE
fail with MALFORMED_FRAME, never with UNEXPECTED_RESPONSE_SHAPE. -/
def Obligations.CommandSingleBitCorruption : Prop :=
  ∀ (s t u : State) (kind : Byte) (hasData : Bool) (pcount : Byte) (f : List Byte) (index bit : Nat),
    exec (.encodeCommand kind hasData pcount) s = .next t → t.res.out = some f → index < f.length → bit < 8 →
    u.inBuf = some (flipBit f index bit) →
    exec .decodeCommand u = .next { u with res := onlyStatus 0x01 } ∧
    exec .decodeGenericResponse u = .next { u with res := onlyStatus 0x01 }

/-- The Reset request of the source (95 L1.3): ENCODE_COMMAND of the table's kind for Reset, with no parameters, builds
exactly its ten bytes, and does not reset the block (R231). -/
def Obligations.ResetRequestIsTheLiteral : Prop :=
  ∀ s : State, exec (.encodeCommand (Config.cmdKind .reset) false 0) s =
    .next { s with
      res := { Results.unwritten with
        status := some 0x00
        out := some [0x5A, 0xA4, 0x04, 0x00, 0x6F, 0x46, 0x0B, 0x00, 0x00, 0x00] } }

/-! ## Errors (60_exceptions.md) -/

/-- R200: an operation either completes with STATUS = OK, or it fails and has no effect beyond STATUS: every other result
register is unwritten, and CRC_ACC and the input registers keep their values. -/
def Obligations.FailureWritesOnlyStatus : Prop :=
  ∀ (instr : Instr) (s t : State) (code : Byte), instr.isOperation = true → exec instr s = .next t →
    t.res.status = some code → code ≠ 0x00 → t = { s with res := onlyStatus code }

/-- R202: the codes each operation can leave in STATUS. A legal request word leaves one of its row; a word with the
operation's code and a reserved field that is not 0 leaves ILLEGAL_OPERATION. -/
def Obligations.StatusCodesPerOperation : Prop :=
  (∀ (instr : Instr) (s t : State), instr.isOperation = true → exec instr s = .next t →
    ∃ code : Byte, t.res.status = some code ∧ code ∈ possibleStatus instr) ∧
  (∀ op : BitVec 4, op.toNat ≤ 0xA → illegalOnReservedBits op)

/-- R203: where several failures apply. ILLEGAL_OPERATION comes before any operand is read, TOO_MANY_PARAMETERS before
any PARAM register is read, and MALFORMED_FRAME before UNEXPECTED_RESPONSE_SHAPE. -/
def Obligations.FailurePriority : Prop :=
  (∀ (s : State) (rest : List CallerStep) (w : Word), s.todo = .start :: rest → s.req = some w → illegalWord w →
    s.inBuf = none → (∀ k : Fin 7, s.param[k] = none) →
    step s = .next { s with todo := rest, res := onlyStatus 0x05 }) ∧
  (∀ (s : State) (kind : Byte) (hasData : Bool) (pcount : Byte), 7 < pcount.toNat →
    (∀ k : Fin 7, s.param[k] = none) →
    exec (.encodeCommand kind hasData pcount) s = .next { s with res := onlyStatus 0x02 }) ∧
  (∀ s t : State, exec .decodeCommand s = .next t → t.res.status = some 0x01 →
    exec .decodeGenericResponse s = .next { s with res := onlyStatus 0x01 })

/-! ## The invariant -/

/-- Every step keeps the invariant of the result registers (from R28, R200, R201), from every state that has it. -/
def Obligations.StepKeepsResultsConsistent : Prop :=
  ∀ s t : State, s.inv → step s = .next t → t.inv

/-- The state after reset has the invariant. -/
def Obligations.ResetResultsConsistent : Prop := State.reset.inv
end

