-- ==== Sys2Proof/Laws/Operands.lean ====
section
/-! SUPPORT. The fields of a request word read back from the word that is built of them (30_encoding.md R81). -/

namespace Sys2Proof.Machine

@[simp] theorem reqOp_reqWord (op : BitVec 4) (p d : Bool) (k c : Byte) : reqOp (reqWord op p d k c) = op := by
  ext i hi
  interval_cases i <;> simp [reqOp, reqWord]

@[simp] theorem reqHasPayload_reqWord (op : BitVec 4) (p d : Bool) (k c : Byte) :
    reqHasPayload (reqWord op p d k c) = p := by
  simp [reqHasPayload, reqWord]

@[simp] theorem reqHasData_reqWord (op : BitVec 4) (p d : Bool) (k c : Byte) :
    reqHasData (reqWord op p d k c) = d := by
  simp [reqHasData, reqWord]

@[simp] theorem reqRsvd0_reqWord (op : BitVec 4) (p d : Bool) (k c : Byte) : reqRsvd0 (reqWord op p d k c) = 0 := by
  ext i hi
  interval_cases i <;> simp [reqRsvd0, reqWord]

@[simp] theorem reqKind_reqWord (op : BitVec 4) (p d : Bool) (k c : Byte) : reqKind (reqWord op p d k c) = k := by
  ext i hi
  interval_cases i <;> simp [reqKind, reqWord]

@[simp] theorem reqPcount_reqWord (op : BitVec 4) (p d : Bool) (k c : Byte) :
    reqPcount (reqWord op p d k c) = c := by
  ext i hi
  interval_cases i <;> simp [reqPcount, reqWord]

@[simp] theorem reqRsvd1_reqWord (op : BitVec 4) (p d : Bool) (k c : Byte) : reqRsvd1 (reqWord op p d k c) = 0 := by
  ext i hi
  interval_cases i <;> simp [reqRsvd1, reqWord]

@[simp] theorem bytesLe16_length (v : Half) : (bytesLe16 v).length = 2 := rfl

@[simp] theorem bytesLe32_length (v : Word) : (bytesLe32 v).length = 4 := rfl

theorem wordsLe_length (b : List Byte) : (wordsLe b).length = b.length / 4 := by
  induction b using wordsLe.induct with
  | case1 b0 b1 b2 b3 rest ih => simp [wordsLe, ih]; omega
  | case2 b h =>
    rcases b with _ | ⟨_, _ | ⟨_, _ | ⟨_, _ | ⟨_, _⟩⟩⟩⟩ <;> first | (simp [wordsLe]; done) | exact absurd rfl (h _ _ _ _ _)

end Sys2Proof.Machine
end

