-- ==== Sys2Proof/Laws/Codec.lean ====
section
/-! SUPPORT. Lengths of the wire formats (30_encoding.md R70 to R73), and when the decoders accept. -/

namespace Sys2Proof.Machine

@[simp] theorem bareFrameBytes_length (k : Byte) : (bareFrameBytes k).length = 2 := rfl

/-- A payload frame is `6 + length` bytes (R71). -/
@[simp] theorem payloadFrameBytes_length (k : Byte) (p : List Byte) :
    (payloadFrameBytes k p).length = 6 + p.length := by
  simp [payloadFrameBytes, frameHeader]; omega

/-- A command payload is `4 + 4·n` bytes (R72). -/
@[simp] theorem commandBytes_length (k f r c : Byte) (ps : List Word) :
    (commandBytes k f r c ps).length = 4 + 4 * ps.length := by
  induction ps with
  | nil => simp [commandBytes]
  | cons p ps ih => simp [commandBytes] at ih ⊢; omega

/-- A ping response is ten bytes (R73). -/
@[simp] theorem pingResponseBytes_length (a b c d e f : Byte) : (pingResponseBytes a b c d e f).length = 10 := rfl

/-- What `decodeFrame` accepts, and what it returns (R121). -/
theorem decodeFrame_ok {b : List Byte} {r : Frame} (h : decodeFrame b = .ok r) :
    ∃ l0 l1 c0 c1, b = frameMarker :: r.kind :: l0 :: l1 :: c0 :: c1 :: r.payload ∧ r.length = le16 l0 l1 ∧
      r.crc = le16 c0 c1 ∧ r.length.toNat = r.payload.length ∧
      crc16 [[frameMarker, r.kind, l0, l1], r.payload] = le16 c0 c1 := by
  unfold decodeFrame at h
  split at h
  · cases h
  · split at h
    · cases h
    · next hm =>
      split at h
      · split at h
        · cases h
        · next hlen =>
          split at h
          · cases h
          · next hcrc =>
            cases h
            simp only [ne_eq, not_not] at hm hcrc
            subst hm
            refine ⟨_, _, _, _, rfl, rfl, rfl, ?_, hcrc⟩
            simp only [frameHeaderLen, List.length_cons] at hlen ⊢
            omega
      · cases h

/-- What `commandOf` accepts, and what it returns (R151). -/
theorem commandOf_ok {r : Frame} {c : Command} (h : commandOf r = .ok c) :
    ∃ body, r.payload = c.kind :: c.flag :: c.rsvd :: c.count :: body ∧ c.count.toNat ≤ 7 ∧
      body.length = 4 * c.count.toNat ∧ c.params = wordsLe body ∧ c.frameKind = r.kind ∧ c.length = r.length ∧
      c.crc = r.crc := by
  unfold commandOf at h
  split at h
  · next hp =>
    split at h
    · cases h
    · next hcount =>
      split at h
      · cases h
      · next hlen =>
        cases h
        refine ⟨_, hp, by simpa [maxParams] using hcount, ?_, rfl, rfl, rfl, rfl⟩
        simp only [hp, List.length_cons, cmdHeaderLen, ne_eq, not_not] at hlen
        dsimp only
        omega
  · cases h

/-- A decoded command has as many parameters as its count says (R151). -/
theorem commandOf_params_length {r : Frame} {c : Command} (h : commandOf r = .ok c) :
    c.params.length = c.count.toNat := by
  obtain ⟨body, -, -, hb, hps, -⟩ := commandOf_ok h
  rw [hps, wordsLe_length, hb]
  omega

end Sys2Proof.Machine
end

