-- ==== Sys2Proof/Laws/Crc.lean ====
section
/-! SUPPORT. How the CRC fold runs over the pieces of a byte string (40_crc.md R102). -/

namespace Sys2Proof.Machine

@[simp] theorem crcFold_nil (acc : Half) : crcFold acc [] = acc := rfl

@[simp] theorem crcFold_cons (acc : Half) (v : Byte) (b : List Byte) :
    crcFold acc (v :: b) = crcFold (crcByte acc v) b := rfl

theorem crcFold_append (acc : Half) (b c : List Byte) : crcFold acc (b ++ c) = crcFold (crcFold acc b) c := by
  simp [crcFold]

/-- One span folded from the seed. -/
theorem crc16_single (b : List Byte) : crc16 [b] = crcFold crcSeed b := rfl

/-- A header and a payload as two spans (R71). -/
theorem crc16_pair (b c : List Byte) : crc16 [b, c] = crcFold (crcFold crcSeed b) c := rfl

end Sys2Proof.Machine
end

