-- ==== Sys2Proof/Laws/Memory.lean ====
section
/-! SUPPORT. IN and OUT as cells are in canonical form in every state (20_memory.md R50), and a cell is what a read of
its index gives (R51). -/

namespace Sys2Proof.Machine

theorem cellsFrom_wf (base : Nat) (b : List Byte) : Memory.wf (cellsFrom base b) = true := by
  induction b generalizing base with
  | nil => rfl
  | cons v rest ih =>
    cases rest with
    | nil => rfl
    | cons w rest => simpa [cellsFrom, Memory.wf] using ih (base + 1)

theorem inCells_wf (s : State) : Memory.wf (inCells s) = true := cellsFrom_wf 0 _

theorem outCells_wf (s : State) : Memory.wf (outCells s) = true := cellsFrom_wf 0 _

theorem reset_inCells : inCells State.reset = [] := rfl

theorem reset_outCells : outCells State.reset = [] := rfl

/-- The cell at a position of a byte string is the byte at that index. -/
theorem cellsFrom_get (base : Nat) (b : List Byte) (i : Nat) :
    (cellsFrom base b)[i]? = b[i]?.map fun v => (base + i, v) := by
  induction b generalizing base i with
  | nil => rfl
  | cons v rest ih =>
    cases i with
    | zero => rfl
    | succ i => simp [cellsFrom, ih, Nat.add_assoc, Nat.add_comm 1 i]

end Sys2Proof.Machine
end

