-- ==== Sys2Proof/Laws/State.lean ====
section
/-! SUPPORT. One lemma per field for the updates of State, so that no later proof unfolds a record update. -/

namespace Sys2Proof.Machine

@[simp] theorem complete_res (s : State) (w : Results) :
    (s.complete w).res = { w with status := some 0x00 } := rfl
@[simp] theorem complete_req (s : State) (w : Results) : (s.complete w).req = s.req := rfl
@[simp] theorem complete_inBuf (s : State) (w : Results) : (s.complete w).inBuf = s.inBuf := rfl
@[simp] theorem complete_param (s : State) (w : Results) : (s.complete w).param = s.param := rfl
@[simp] theorem complete_crcAcc (s : State) (w : Results) : (s.complete w).crcAcc = s.crcAcc := rfl
@[simp] theorem complete_todo (s : State) (w : Results) : (s.complete w).todo = s.todo := rfl
@[simp] theorem complete_got (s : State) (w : Results) : (s.complete w).got = s.got := rfl

@[simp] theorem raise_res (s : State) (e : StatusCode) :
    (s.raise e).res = { Results.unwritten with status := some (statusByte e) } := rfl
@[simp] theorem raise_req (s : State) (e : StatusCode) : (s.raise e).req = s.req := rfl
@[simp] theorem raise_inBuf (s : State) (e : StatusCode) : (s.raise e).inBuf = s.inBuf := rfl
@[simp] theorem raise_param (s : State) (e : StatusCode) : (s.raise e).param = s.param := rfl
@[simp] theorem raise_crcAcc (s : State) (e : StatusCode) : (s.raise e).crcAcc = s.crcAcc := rfl
@[simp] theorem raise_todo (s : State) (e : StatusCode) : (s.raise e).todo = s.todo := rfl
@[simp] theorem raise_got (s : State) (e : StatusCode) : (s.raise e).got = s.got := rfl

@[simp] theorem writeIn_inBuf (s : State) (b : List Byte) : (s.writeIn b).inBuf = some b := rfl
@[simp] theorem writeIn_req (s : State) (b : List Byte) : (s.writeIn b).req = s.req := rfl
@[simp] theorem writeIn_param (s : State) (b : List Byte) : (s.writeIn b).param = s.param := rfl
@[simp] theorem writeIn_res (s : State) (b : List Byte) : (s.writeIn b).res = s.res := rfl
@[simp] theorem writeIn_crcAcc (s : State) (b : List Byte) : (s.writeIn b).crcAcc = s.crcAcc := rfl
@[simp] theorem writeIn_todo (s : State) (b : List Byte) : (s.writeIn b).todo = s.todo := rfl
@[simp] theorem writeIn_got (s : State) (b : List Byte) : (s.writeIn b).got = s.got := rfl

@[simp] theorem conclude_ok {α : Type} (s : State) (a : α) (w : α → Results) :
    s.conclude (.ok a) w = s.complete (w a) := rfl
@[simp] theorem conclude_error {α : Type} (s : State) (e : StatusCode) (w : α → Results) :
    s.conclude (.error e) w = s.raise e := rfl

end Sys2Proof.Machine
end

