-- ==== Sys2Proof/Laws/Ops.lean ====
section
/-! SUPPORT. What each shared operation can do, said once: a proof cites these instead of unfolding the operation. -/

namespace Sys2Proof.Machine

/-- How an operation that reads IN can answer a next state. -/
theorem withIn_next {s t : State} {run : List Byte → Answer} (h : withIn s run = .next t) :
    ∃ b, s.inBuf = some b ∧ run b = .next t := by
  unfold withIn at h
  split at h
  · exact ⟨_, ‹_›, h⟩
  · cases h

theorem withIn_some {s : State} {b : List Byte} (h : s.inBuf = some b) (run : List Byte → Answer) :
    withIn s run = run b := by
  simp [withIn, h]

theorem withIn_none {s : State} (h : s.inBuf = none) (run : List Byte → Answer) :
    withIn s run = .fault (.readUnwritten .inBuf) := by
  simp [withIn, h]

/-- `InRead(i)` below IN_LEN gives the byte at index i (R51). -/
theorem inRead_below {s : State} {b : List Byte} {i : Nat} (h : s.inBuf = some b) (hi : i < b.length)
    (run : Byte → Answer) : inRead s i run = run b[i] := by
  simp [inRead, withIn_some h, hi]

/-- `InRead(i)` at or past IN_LEN is the fault InOutOfRange (R51). -/
theorem inRead_past {s : State} {b : List Byte} {i : Nat} (h : s.inBuf = some b) (hi : b.length ≤ i)
    (run : Byte → Answer) : inRead s i run = .fault (.inOutOfRange i) := by
  simp [inRead, withIn_some h, hi]

/-- A conclusion leaves STATUS = OK and what the operation writes, or only the code it raises (R200). -/
theorem conclude_cases {α : Type} (s : State) (v : Except StatusCode α) (w : α → Results) :
    (∃ a, v = .ok a ∧ s.conclude v w = s.complete (w a)) ∨ (∃ e, v = .error e ∧ s.conclude v w = s.raise e) := by
  cases v with
  | ok a => exact .inl ⟨a, rfl, rfl⟩
  | error e => exact .inr ⟨e, rfl, rfl⟩

/-- The written prefix of a parameter file has the length asked for, as far as the file goes. -/
theorem writtenPrefix_length {ps : List (Option Word)} {k n : Nat} {vs : List Word}
    (h : writtenPrefix ps k n = .ok vs) : vs.length = min n ps.length := by
  induction ps generalizing k n vs with
  | nil => cases n <;> simp [writtenPrefix] at h <;> simp [← h]
  | cons p ps ih =>
    cases n with
    | zero => simp [writtenPrefix] at h; simp [← h]
    | succ n =>
      cases p with
      | none => simp [writtenPrefix] at h
      | some v =>
        simp only [writtenPrefix] at h
        split at h
        · next ws hw => cases h; simp [ih hw]
        · cases h

/-- The written prefix of a parameter file holds the file's entries in order. -/
theorem writtenPrefix_get {ps : List (Option Word)} {k n : Nat} {vs : List Word}
    (h : writtenPrefix ps k n = .ok vs) (i : Nat) (hi : i < vs.length) : ps[i]? = some (some vs[i]) := by
  induction ps generalizing k n vs i with
  | nil => cases n <;> simp [writtenPrefix] at h <;> subst h <;> simp at hi
  | cons p ps ih =>
    cases n with
    | zero => simp [writtenPrefix] at h; subst h; simp at hi
    | succ n =>
      cases p with
      | none => simp [writtenPrefix] at h
      | some v =>
        simp only [writtenPrefix] at h
        split at h
        · next ws hw =>
          cases h
          cases i with
          | zero => simp
          | succ i => simpa using ih hw i (by simpa using hi)
        · cases h

/-- How an operation that reads PARAM can answer a next state. -/
theorem withParams_next {s t : State} {n : Nat} {run : List Word → Answer} (h : withParams s n run = .next t) :
    ∃ vs, writtenPrefix s.param.toList 0 n = .ok vs ∧ run vs = .next t := by
  unfold withParams at h
  split at h
  · exact ⟨_, ‹_›, h⟩
  · cases h

/-- A caller's read answers a next state only with the value of an assigned, readable, written register, and changes
nothing but what the caller has read (R58). -/
theorem callerRead_next {s t : State} {number : Nat} (h : callerRead number s = .next t) :
    ∃ r v, regOf number = some r ∧ callerReads r = true ∧ regValue s r = some v ∧
      t = { s with got := s.got ++ [v] } := by
  unfold callerRead at h
  split at h
  · cases h
  · next r hr =>
    split at h
    · split at h
      · next v hv => cases h; exact ⟨r, v, hr, ‹_›, hv, rfl⟩
      · cases h
    · cases h

/-- A caller's write answers a next state only by writing REQ, IN or one PARAM register (R21). -/
theorem callerWrite_next {s t : State} {number : Nat} {v : RegValue} (h : callerWrite number v s = .next t) :
    (∃ w, t = { s with req := some w }) ∨ (∃ b, t = s.writeIn b) ∨
      (∃ (k : Fin 7) (w : Word), t = { s with param := s.param.set k (some w) }) := by
  unfold callerWrite at h
  split at h <;> cases h
  · exact .inl ⟨_, rfl⟩
  · exact .inr (.inl ⟨_, rfl⟩)
  · exact .inr (.inr ⟨_, _, rfl⟩)

end Sys2Proof.Machine
end

