-- ==== Sys2Proof/Laws/PerInstr.lean ====
section
/-! SUPPORT. One fact about the encoding of every instruction, one lemma per constructor: a request word has both
reserved fields 0 (30_encoding.md R81), a wire format begins with the marker (R70, R71, R73). -/

namespace Sys2Proof.Laws.Encodes

open Sys2Proof Sys2Proof.Machine

def Statement (instr : Instr) : Prop :=
  match encode instr with
  | .request w => reqRsvd0 w = 0 ∧ reqRsvd1 w = 0
  | .frame _ b => b.head? = some frameMarker

theorem crcInit : Statement .crcInit := by simp [Statement, encode]
theorem crcFeed : Statement .crcFeed := by simp [Statement, encode]
theorem crcRead : Statement .crcRead := by simp [Statement, encode]
theorem crc16 : Statement .crc16 := by simp [Statement, encode]
theorem encodeFrame (kind : Byte) (hasPayload : Bool) : Statement (.encodeFrame kind hasPayload) := by
  simp [Statement, encode]
theorem decodeFrame : Statement .decodeFrame := by simp [Statement, encode]
theorem decodePingResponse : Statement .decodePingResponse := by simp [Statement, encode]
theorem encodeCommand (kind : Byte) (hasData : Bool) (pcount : Byte) :
    Statement (.encodeCommand kind hasData pcount) := by simp [Statement, encode]
theorem decodeCommand : Statement .decodeCommand := by simp [Statement, encode]
theorem decodeGenericResponse : Statement .decodeGenericResponse := by simp [Statement, encode]
theorem decodeAck : Statement .decodeAck := by simp [Statement, encode]
theorem reservedOpB : Statement .reservedOpB := by simp [Statement, encode]
theorem reservedOpC : Statement .reservedOpC := by simp [Statement, encode]
theorem reservedOpD : Statement .reservedOpD := by simp [Statement, encode]
theorem reservedOpE : Statement .reservedOpE := by simp [Statement, encode]
theorem reservedOpF : Statement .reservedOpF := by simp [Statement, encode]
theorem wireBareFrame (kind : Byte) : Statement (.wireBareFrame kind) := rfl
theorem wirePingRequest : Statement .wirePingRequest := rfl
theorem wireAck : Statement .wireAck := rfl
theorem wireNak : Statement .wireNak := rfl
theorem wirePayloadFrame (kind : Byte) (payload : List Byte) : Statement (.wirePayloadFrame kind payload) := rfl
theorem wireCommandFrame (cmdKind : Byte) (hasData : Bool) (params : List Word) :
    Statement (.wireCommandFrame cmdKind hasData params) := rfl
theorem wireGenericResponse (flag rsvd : Byte) (statusCode echoedKind : Word) :
    Statement (.wireGenericResponse flag rsvd statusCode echoedKind) := rfl
theorem wirePingResponse (patch minor major byte5 byte6 byte7 : Byte) :
    Statement (.wirePingResponse patch minor major byte5 byte6 byte7) := rfl

end Sys2Proof.Laws.Encodes
end

