-- ==== Sys2Proof/Tests/Slice0.lean ====
section
/-! SUPPORT. The model's own tests: words and frames written out from the spec's encodings, one step per operation on the
vectors of 95_test_vectors.md, and a named witness for the hypotheses of every statement. -/

namespace Sys2Proof.Tests

open Sys2Proof Sys2Proof.Machine

/-- A state with REQ, IN and CRC_ACC given and a caller about to start. -/
def starting (w : Word) (input : Option (List Byte)) (acc : Half := 0x1234) : State :=
  { State.reset with req := some w, inBuf := input, crcAcc := acc, todo := [.start] }

/-- A state with IN given. -/
def given (b : List Byte) : State := { State.reset with inBuf := some b }

/-- A state with PARAM given. -/
def params (vs : List Word) : State := { State.reset with param := paramFile vs }

/-- Whether an answer is a next state that passes a check. -/
def nextIs (a : Answer) (check : State → Bool) : Bool :=
  match a with
  | .next t => check t
  | .fault _ => false
  | .refused _ => false

/-- Whether an answer is a given fault. -/
def faultIs (a : Answer) (f : Fault) : Bool :=
  match a with
  | .next _ => false
  | .fault g => g == f
  | .refused _ => false

/-- The value an answer leaves in a result register. -/
def leaves (a : Answer) (res : Results) : Bool := nextIs a fun t => t.res == res

theorem next_of_nextIs {a : Answer} {check : State → Bool} (h : nextIs a check = true) :
    ∃ t, a = .next t ∧ check t = true := by
  cases a with
  | next t => exact ⟨t, rfl, h⟩
  | fault _ => cases h
  | refused _ => cases h

def resetFrame : List Byte := [0x5A, 0xA4, 0x04, 0x00, 0x6F, 0x46, 0x0B, 0x00, 0x00, 0x00]
def pingFrame : List Byte := [0x5A, 0xA7, 0x00, 0x02, 0x01, 0x50, 0x00, 0x00, 0xAA, 0xEA]
def oneParamFrame : List Byte :=
  [0x5A, 0xA4, 0x08, 0x00, 0x73, 0xD4, 0x07, 0x00, 0x00, 0x01, 0x01, 0x00, 0x00, 0x00]
def responseFrame : List Byte :=
  [0x5A, 0xA4, 0x0C, 0x00, 0xCD, 0xA6, 0xA0, 0x00, 0x00, 0x02, 0x00, 0x00, 0x00, 0x00, 0x0B, 0x00, 0x00, 0x00]

/-! ## WellFormed: an ill-formed term for each check -/

theorem test_wf_refuses_long_payload (p : List Byte) (h : p.length = 65536) :
    (Instr.wirePayloadFrame 0x00 p).wf = false := by
  simp [Instr.wf, maxPayload, h]
theorem test_wf_accepts_longest_payload (p : List Byte) (h : p.length = 65535) :
    (Instr.wirePayloadFrame 0x00 p).wf = true := by
  simp [Instr.wf, maxPayload, h]
theorem test_wf_refuses_eight_params : (Instr.wireCommandFrame 0x01 false [0, 1, 2, 3, 4, 5, 6, 7]).wf = false := by
  decide
theorem test_wf_accepts_seven_params : (Instr.wireCommandFrame 0x01 false [0, 1, 2, 3, 4, 5, 6]).wf = true := by
  decide

/-! ## Decoding: a word for every constructor, from the encodings of 30_encoding.md and 95 L2 -/

theorem test_decode_crcInit : decodeTableWord 32 0x00000000 = some .crcInit := by decide
theorem test_decode_crcFeed : decodeTableWord 32 0x00000001 = some .crcFeed := by decide
theorem test_decode_crcRead : decodeTableWord 32 0x00000002 = some .crcRead := by decide
theorem test_decode_crc16 : decodeTableWord 32 0x00000003 = some .crc16 := by decide
theorem test_decode_encodeFrame_bare : decodeTableWord 32 0x0000A604 = some (.encodeFrame 0xA6 false) := by decide
theorem test_decode_encodeFrame_payload : decodeTableWord 32 0x0000A514 = some (.encodeFrame 0xA5 true) := by decide
theorem test_decode_decodeFrame : decodeTableWord 32 0x00FFFF05 = some .decodeFrame := by decide
theorem test_decode_decodePingResponse : decodeTableWord 32 0x00000006 = some .decodePingResponse := by decide
theorem test_decode_encodeCommand : decodeTableWord 32 0x00020327 = some (.encodeCommand 0x03 true 2) := by decide
theorem test_decode_encodeCommand_count : decodeTableWord 32 0x00FF0B07 = some (.encodeCommand 0x0B false 255) := by
  decide
theorem test_decode_decodeCommand : decodeTableWord 32 0x00000008 = some .decodeCommand := by decide
theorem test_decode_decodeGenericResponse : decodeTableWord 32 0x00000009 = some .decodeGenericResponse := by decide
theorem test_decode_decodeAck : decodeTableWord 32 0x0000000A = some .decodeAck := by decide
theorem test_decode_reservedOpB : decodeTableWord 32 0x0000000B = some .reservedOpB := by decide
theorem test_decode_reservedOpC : decodeTableWord 32 0x0000000C = some .reservedOpC := by decide
theorem test_decode_reservedOpD : decodeTableWord 32 0x0000000D = some .reservedOpD := by decide
theorem test_decode_reservedOpE : decodeTableWord 32 0x0000000E = some .reservedOpE := by decide
theorem test_decode_reservedOpF : decodeTableWord 32 0xFFFFFFFF = some .reservedOpF := by decide
theorem test_decode_refuses_rsvd0_bit6 : decodeReq 0x00000040 = .error .rsvd0NotZero := by decide
theorem test_decode_refuses_rsvd0_bit7 : decodeReq 0x0000A484 = .error .rsvd0NotZero := by decide
theorem test_decode_refuses_rsvd1_bit24 : decodeReq 0x01000001 = .error .rsvd1NotZero := by decide
theorem test_decode_refuses_rsvd1_bit31 : decodeReq 0x80000004 = .error .rsvd1NotZero := by decide
theorem test_decode_wireBareFrame : decodeWire .bareFrame [0x5A, 0x33] = .ok (.wireBareFrame 0x33) := by decide
theorem test_decode_wirePingRequest : decodeTableWord 16 0x5AA6 = some .wirePingRequest := by decide
theorem test_decode_wireAck : decodeWire .ack [0x5A, Config.cce.frameKindAck] = .ok .wireAck := by
  simp [decodeWire, wireFields, bareFrameBytes, frameMarker]
theorem test_decode_wireNak : decodeWire .nak [0x5A, Config.cce.frameKindNak] = .ok .wireNak := by
  simp [decodeWire, wireFields, bareFrameBytes, frameMarker]
theorem test_decode_wirePayloadFrame : decodeWire .payloadFrame [0x5A, 0xA5, 0x01, 0x00, 0x9F, 0x32, 0x00] =
    .ok (.wirePayloadFrame 0xA5 [0x00]) := by decide +kernel
theorem test_decode_wireCommandFrame : decodeWire .commandFrame oneParamFrame =
    .ok (.wireCommandFrame 0x07 false [0x00000001]) := by decide +kernel
theorem test_decode_wirePingResponse : decodeTableWord 80 0x5AA70002015000 = none ∧
    decodeTableWord 80 0x5AA7000201500000AAEA = some (.wirePingResponse 0x00 0x02 0x01 0x50 0x00 0x00) := by
  decide +kernel
theorem test_decode_refuses_wrong_marker : decodeWire .bareFrame [0x5B, 0xA6] = .error (.notOfForm .bareFrame) := by
  decide
theorem test_decode_refuses_bad_crc : decodeWire .payloadFrame [0x5A, 0xA5, 0x01, 0x00, 0x9F, 0x33, 0x00] =
    .error (.notOfForm .payloadFrame) := by decide +kernel

/-- The response of 95 L2.6 with the example kind 0xA0 in a frame is of the generic form exactly where the configured
kind is 0xA0; its command decodes whatever the configuration. -/
theorem test_decode_wireGenericResponse : Config.cce.cmdKindResponseGeneric = 0xA0 →
    decodeWire .genericResponse responseFrame = .ok (.wireGenericResponse 0x00 0x00 0x00000000 0x0000000B) := by
  intro h
  have hc : commandFrameOf responseFrame = some
      { frameKind := 0xA4, length := 12, crc := 0xA6CD, kind := 0xA0, flag := 0, rsvd := 0, count := 2
        params := [0x00000000, 0x0000000B] } := by decide +kernel
  simp [decodeWire, wireFields, hc, h]

/-! ## One step of each operation (95 L2.2 to L2.9) -/

theorem test_crc_check_value : crc16 [[0x31, 0x32], [0x33, 0x34, 0x35, 0x36, 0x37, 0x38, 0x39]] = 0x31C3 := by
  decide +kernel
theorem test_crc_residue : crc16 [resetFrame.take 4 ++ resetFrame.drop 6 ++ [0x6F, 0x46]] = 0x0935 := by
  decide +kernel
theorem test_crcInit : nextIs (step (starting 0x00000000 none 0x31C3)) (fun t => t.crcAcc == 0x0000) = true := by
  decide
theorem test_crcFeed : nextIs (step (starting 0x00000001 (some [0x31, 0x32]) 0x0000)) (fun t => t.crcAcc == 0x20B5)
    = true := by decide +kernel
theorem test_crcFeed_rsvd : nextIs (step (starting 0x01000001 (some [0x01])))
    (fun t => t.crcAcc == 0x1234 && t.res == onlyStatus 0x05) = true := by decide +kernel
theorem test_crcRead : nextIs (step (starting 0x00000002 none)) (fun t => t.res.rCrc == some 0x1234) = true := by
  decide
theorem test_crc16_empty : nextIs (step (starting 0x00000003 (some [])))
    (fun t => t.res.rCrc == some 0x0000 && t.crcAcc == 0x0000) = true := by decide +kernel
theorem test_crc16 : nextIs (step (starting 0x00000003 (some [0x5A, 0xA4, 0x04, 0x00, 0x0B, 0x00, 0x00, 0x00])))
    (fun t => t.res.rCrc == some 0x466F && t.crcAcc == 0x466F) = true := by decide +kernel
theorem test_encodeFrame_empty : leaves (step (starting 0x0000A414 (some [])))
    { outWrite [0x5A, 0xA4, 0x00, 0x00, 0xCC, 0x7C] with status := some 0x00 } = true := by decide +kernel
theorem test_encodeFrame_too_long (p : List Byte) (h : p.length = 65536) :
    encodeFrame 0x00 (some p) = .error .payloadTooLong := by
  simp [encodeFrame, maxPayload, h]
theorem test_decodeFrame : leaves (step (starting 0x00000005 (some resetFrame)))
    { outWrite [0x0B, 0x00, 0x00, 0x00] with
      status := some 0x00, rKind := some 0xA4, rLen := some 4, rFcrc := some 0x466F } = true := by decide +kernel
theorem test_decodeFrame_trailing : leaves (step (starting 0x00000005 (some (resetFrame ++ [0x00]))))
    (onlyStatus 0x01) = true := by decide +kernel
theorem test_decodePingResponse_five : decodePingResponse .five
    [0x5A, 0xA7, 0x03, 0x04, 0x02, 0x34, 0x12, 0x00, 0xA9, 0x50] =
    .ok { kind := 0xA7, crc := 0x50A9, patch := 3, minor := 4, major := 2, options := 0x1234 } := by decide +kernel
theorem test_decodePingResponse_six : decodePingResponse .six pingFrame =
    .ok { kind := 0xA7, crc := 0xEAAA, patch := 0, minor := 2, major := 1, options := 0x0000 } := by decide +kernel
theorem test_encodeCommand : leaves (exec (.encodeCommand 0x03 true 2) (params [0x20000000, 0x00000100]))
    { outWrite [0x5A, 0xA4, 0x0C, 0x00, 0x81, 0x9E, 0x03, 0x01, 0x00, 0x02, 0x00, 0x00, 0x00, 0x20, 0x00, 0x01, 0x00,
        0x00] with status := some 0x00 } = true := by decide +kernel
theorem test_encodeCommand_unwritten : faultIs (exec (.encodeCommand 0x07 false 3) (params [1, 2]))
    (.readUnwritten (.param 2)) = true := by decide +kernel
theorem test_decodeCommand : leaves (exec .decodeCommand (given oneParamFrame))
    { Results.unwritten with
      status := some 0x00, rKind := some 0xA4, rLen := some 8, rFcrc := some 0xD473, rCmdKind := some 0x07
      rCmdFlag := some 0x00, rCmdRsvd := some 0x00, rCmdPcount := some 1, rParam := paramFile [0x00000001] } = true := by
  decide +kernel
theorem test_decodeCommand_eight : leaves (exec .decodeCommand (given
    ([0x5A, 0xA4, 0x24, 0x00, 0xD1, 0x70, 0x01, 0x00, 0x00, 0x08] ++ List.replicate 32 0x00))) (onlyStatus 0x01)
    = true := by decide +kernel
theorem test_decodeGenericResponse : decodeGenericResponse 0xA0 responseFrame = .ok (0x00000000, 0x0000000B) := by
  decide +kernel
theorem test_decodeGenericResponse_shape : decodeGenericResponse 0xA0 resetFrame = .error .unexpectedResponseShape := by
  decide +kernel
theorem test_decodeAck_long : leaves (exec .decodeAck (given resetFrame))
    { Results.unwritten with status := some 0x00, rAck := some false } = true := by decide +kernel
theorem test_decodeAck_marker : leaves (exec .decodeAck (given [0x5B, 0xA1]))
    { Results.unwritten with status := some 0x00, rAck := some false } = true := by decide +kernel
theorem test_reservedOp : leaves (step (starting 0x0000000F none)) (onlyStatus 0x05) = true := by decide +kernel
theorem test_idle : nextIs (step State.reset) (fun t => t == State.reset) = true := by decide +kernel
theorem test_start_unwritten : faultIs (step { State.reset with todo := [.start] }) (.readUnwritten .req) = true := by
  decide
theorem test_wirePingRequest : nextIs (step (State.reset.withFetchWord 16 0x5AA6))
    (fun t => t == given [0x5A, 0xA6]) = true := by decide +kernel
theorem test_caller_read_in_len : nextIs (callerRead 2 (given [0x01, 0x02])) (fun t => t.got == [.count 2]) = true := by
  decide +kernel
theorem test_caller_reads_unassigned : callerRead 31 State.reset = .refused (.noSuchRegister 31) := rfl
theorem test_caller_reads_crcAcc : callerRead 48 State.reset = .refused (.notReadableByCaller 48) := rfl
theorem test_caller_writes_status : callerWrite 16 (.u8 0) State.reset = .refused (.notWritableByCaller 16) := rfl
theorem test_caller_writes_param6 : nextIs (callerWrite 9 (.u32 5) State.reset)
    (fun t => t.param == #v[none, none, none, none, none, none, some 5]) = true := by decide +kernel
theorem test_pseudo_ping : assemble .pingRequest = [.write 0 (.u32 0x0000A604), .start] := by decide

/-- The numbers where the rows of the register table begin and end (R21). -/
theorem test_register_numbers : [9, 10, 15, 16, 30, 31, 32, 38, 39, 41, 42, 47, 48, 49].map regOf =
    [some (.param 6), none, none, some .status, some .rCmdPcount, none, some (.rParam 0), some (.rParam 6),
      some .rStatusCode, some .rAck, none, none, some .crcAcc, none] := by decide

/-! ## Witnesses: a concrete input for the hypotheses of each statement -/

theorem resetFrame_isFrame : isFrame resetFrame 0xA4 4 0x466F [0x0B, 0x00, 0x00, 0x00] :=
  ⟨0x04, 0x00, 0x6F, 0x46, by decide +kernel⟩

theorem oneParamFrame_isCommand : isCommand oneParamFrame 0xA4 8 0xD473 0x07 0x00 0x00 1 [0x00000001] :=
  ⟨[0x07, 0x00, 0x00, 0x01, 0x01, 0x00, 0x00, 0x00], [0x01, 0x00, 0x00, 0x00],
    ⟨0x08, 0x00, 0x73, 0xD4, by decide +kernel⟩, rfl, by decide, by decide, by decide, by
      intro k hk
      obtain rfl : k = 0 := by simp at hk; omega
      exact ⟨0x01, 0x00, 0x00, 0x00, rfl, rfl, rfl, rfl, by decide⟩⟩

theorem resetFrame_isCommand : isCommand resetFrame 0xA4 4 0x466F 0x0B 0x00 0x00 0 [] :=
  ⟨_, [], resetFrame_isFrame, rfl, by decide, by decide, by decide, by intro k hk; exact absurd hk (by simp)⟩

theorem no_frame_in_empty (kind : Byte) (length crc : Half) (payload : List Byte) :
    ¬ isFrame [] kind length crc payload := by
  rintro ⟨l0, l1, c0, c1, h, -⟩
  simp at h

theorem witness_DecodeOfEncode : (Instr.wireCommandFrame 0x01 true [0, 1, 2, 3, 4, 5, 6]).wf = true ∧
    (Instr.wirePayloadFrame 0xA4 []).wf = true := by decide

theorem witness_OperationsReadOnlyTheirFields :
    (reqOp 0x00000005 ≠ 0x4 ∧ reqOp 0x00000005 ≠ 0x7 ∧
      (0x00000005 : Word) &&& 0xFF0000CF = 0x00FFFF35 &&& 0xFF0000CF) ∧
    (reqOp 0x0000A604 = 0x4 ∧ (0x0000A604 : Word) &&& 0xFF00FFDF = 0x00FFA624 &&& 0xFF00FFDF) ∧
    (reqOp 0x00020327 = 0x7 ∧ (0x00020327 : Word) &&& 0xFFFFFFEF = 0x00020337 &&& 0xFFFFFFEF) ∧
    (Instr.crcRead.isOperation = true ∧ readsIn .crcRead = false) ∧
    ((Instr.encodeCommand 0x07 false 1).isOperation = true ∧
      ∀ k : Fin 7, k.val < readsParam (.encodeCommand 0x07 false 1) →
        (paramFile [1, 2])[k] = (params [1]).param[k]) := by
  refine ⟨by decide, by decide, by decide, by decide, by decide, ?_⟩
  decide

theorem witness_IllegalWordsRaise :
    illegalWord 0x0000000B ∧ illegalWord 0x0000000F ∧ illegalWord 0x00000040 ∧ illegalWord 0x00000080 ∧
    illegalWord 0x01000000 ∧ illegalWord 0x80000004 ∧ ¬ illegalWord 0x00FFFF3A ∧
    (starting 0x00000040 none).todo = [.start] ∧ (starting 0x00000040 none).req = some 0x00000040 := by
  decide

/-- The hypotheses of `illegalOnReservedBits`, which the statements about single operations share. -/
theorem witness_illegalOnReservedBits (op : BitVec 4) :
    ∃ (s : State) (w : Word), s.todo = [.start] ∧ s.req = some w ∧ reqOp w = op ∧
      (reqRsvd0 w ≠ 0 ∨ reqRsvd1 w ≠ 0) := by
  refine ⟨starting (0x00000040 ||| op.setWidth 32) none, _, rfl, rfl, ?_, .inl ?_⟩ <;> revert op <;> decide

theorem witness_WireFramesBecomeInput : ∃ (payload : List Byte) (l c : Half), l = BitVec.ofNat 16 payload.length ∧
    c = crc16 [[0x5A, 0xA5] ++ bytesLe16 l, payload] := ⟨[0x00], _, _, rfl, rfl⟩

theorem witness_NoReadPastTheEndOfIn : (given [0x01]).inBuf = some [0x01] ∧ ([0x01] : List Byte)[0]? = some 0x01 ∧
    ([0x01] : List Byte).length ≤ 1 := by decide

theorem witness_RerunGivesTheSame :
    (∃ t, exec .decodeFrame (given resetFrame) = .next t) ∧
    (∃ t, step { given [0x01] with todo := [.read 2] } = .next t) := ⟨⟨_, rfl⟩, ⟨_, rfl⟩⟩

theorem witness_ResetEventResets : ({ given [0x01] with todo := [.reset, .start] } : State).todo = .reset :: [.start] :=
  rfl

theorem witness_StepRunsTheRequestedOperation :
    (starting 0x0000A604 none).todo = [.start] ∧ (starting 0x0000A604 none).req = some 0x0000A604 ∧
    decodeReq 0x0000A604 = .ok (.encodeFrame 0xA6 false) := by decide

theorem witness_StepRunsThePresentedFrame :
    ({ State.reset with todo := [.present .pingRequest [0x5A, 0xA6]] } : State).todo =
      .present .pingRequest [0x5A, 0xA6] :: [] ∧
    decodeWire .pingRequest [0x5A, 0xA6] = .ok .wirePingRequest ∧
    decodeWire .pingRequest [0x5A] = .error (.notOfForm .pingRequest) ∧
    ∃ t, step { State.reset with todo := [.present .pingRequest [0x5A]] } = .next t :=
  ⟨rfl, by decide, by decide, _, rfl⟩

theorem witness_StartStepByStep :
    (({ State.reset with todo := [.start] } : State).req = none) ∧
    illegalWord 0x0000000C ∧ ¬ illegalWord 0x0000000A ∧
    (∃ t, step (starting 0x0000000A (some [])) = .next t) ∧
    (∃ t, step { State.reset with todo := [.write 1 (.bytes [])] } = .next t) :=
  ⟨rfl, by decide, by decide, ⟨_, rfl⟩, ⟨_, rfl⟩⟩

theorem witness_IdleBlockStaysIdle : State.reset.todo = [] ∧
    (∃ t, step { given [0x01] with todo := [.read 2] } = .next t) ∧ CallerStep.read 2 ≠ .start ∧
    CallerStep.read 2 ≠ .reset := ⟨rfl, ⟨_, rfl⟩, by decide, by decide⟩

theorem witness_UnwrittenReadsFault :
    (readsIn .crcFeed = true ∧ State.reset.inBuf = none) ∧
    ((7 : Byte).toNat ≤ 7 ∧ (6 : Fin 7).val < (7 : Byte).toNat ∧ (params [0, 1, 2, 3, 4, 5]).param[(6 : Fin 7)] = none ∧
      ∀ j : Fin 7, j.val < (6 : Fin 7).val → (params [0, 1, 2, 3, 4, 5]).param[j] ≠ none) ∧
    (regOf 16 = some .status ∧ isResultReg .status = true ∧ regValue State.reset .status = none) ∧
    (regOf 41 = some .rAck ∧ isResultReg .rAck = true ∧ regValue State.reset .rAck = none) := by
  refine ⟨by decide, ⟨by decide, by decide, by decide, by decide⟩, by decide, by decide⟩

theorem witness_WrittenRegistersPerOperation :
    Instr.isOperation .decodeCommand = true ∧
    (∃ t, exec .decodeCommand (given oneParamFrame) = .next t ∧ (t.res.status == some 0x00) = true) ∧
    (∃ t, exec .decodeCommand (given []) = .next t ∧ (t.res.status == some 0x01) = true) :=
  ⟨by decide, next_of_nextIs (check := fun t => t.res.status == some 0x00) (by decide +kernel),
    next_of_nextIs (check := fun t => t.res.status == some 0x01) (by decide +kernel)⟩

theorem witness_ResultsAreClearedAtStart : Instr.isOperation .decodeAck = true ∧
    ∃ t, exec .decodeAck (given []) = .next t := ⟨by decide, _, rfl⟩

theorem witness_OperationsKeepTheInputs : (Instr.encodeCommand 0x0B false 0).isOperation = true ∧
    ∃ t, exec (.encodeCommand 0x0B false 0) State.reset = .next t := ⟨by decide, _, rfl⟩

theorem witness_CallerReadsTheRegisterTable :
    ((given [0x01]).inBuf = some [0x01]) ∧
    (∃ s : State, s.res.out = some [] ∧ s.res.status = some 0x00 ∧ s.res.rKind = some 0xFF ∧ s.res.rPatch = some 1 ∧
      s.res.rMinor = some 2 ∧ s.res.rMajor = some 3 ∧ s.res.rCmdKind = some 4 ∧ s.res.rCmdFlag = some 5 ∧
      s.res.rCmdRsvd = some 6 ∧ s.res.rCmdPcount = some 7 ∧ s.res.rCrc = some 0xFFFF ∧ s.res.rLen = some 8 ∧
      s.res.rFcrc = some 9 ∧ s.res.rOptions = some 10 ∧ s.res.rParam[(6 : Fin 7)] = some 11 ∧
      s.res.rStatusCode = some 12 ∧ s.res.rEchoedKind = some 13 ∧ s.res.rAck = some true) :=
  ⟨rfl, { State.reset with res :=
      { status := some 0x00, out := some [], rCrc := some 0xFFFF, rKind := some 0xFF, rLen := some 8, rFcrc := some 9
        rPatch := some 1, rMinor := some 2, rMajor := some 3, rOptions := some 10, rCmdKind := some 4
        rCmdFlag := some 5, rCmdRsvd := some 6, rCmdPcount := some 7
        rParam := paramFile [0, 0, 0, 0, 0, 0, 11], rStatusCode := some 12, rEchoedKind := some 13
        rAck := some true } }, by decide⟩

theorem witness_CallerWritesTheRegisterTable :
    ({ State.reset with todo := [.write 9 (.u32 1)] } : State).todo = .write 9 (.u32 1) :: [] := rfl

theorem witness_CrcFeedRuns : (given []).inBuf = some [] ∧ State.reset.inBuf = none ∧
    (given (List.replicate 2 0x00)).inBuf = some (List.replicate 2 0x00) ∧
    (given (List.replicate 2 0x00)).crcAcc = 0x0000 := ⟨rfl, rfl, rfl, rfl⟩

theorem witness_StreamedSpansGiveTheirCrc :
    ({ State.reset with todo := assemble (.crc16Spans [[0x31], [], [0x32]]) } : State).todo =
      assemble (.crc16Spans [[0x31], [], [0x32]]) := rfl

theorem witness_CodecOperationsKeepTheStream : Instr.isOperation .decodeFrame = true ∧
    Instr.isCrcOperation .decodeFrame = false ∧ ∃ t, exec .decodeFrame (given resetFrame) = .next t :=
  ⟨by decide, by decide, _, rfl⟩

theorem witness_CrcLaws : 9 < resetFrame.length ∧ 7 < 8 := by decide

theorem witness_EncodeFrameRuns :
    ((given [0x00]).inBuf = some [0x00] ∧ ([0x00] : List Byte).length ≤ 65535 ∧
      (1 : Half).toNat = ([0x00] : List Byte).length) ∧
    (∃ p : List Byte, p.length = 65535 ∧ (0xFFFF : Half).toNat = p.length ∧ (given p).inBuf = some p) ∧
    (∃ p : List Byte, 65535 < p.length ∧ (given p).inBuf = some p) :=
  ⟨by decide, ⟨List.replicate 65535 0x00, List.length_replicate, List.length_replicate.symm, rfl⟩,
    ⟨List.replicate 65536 0x00, List.length_replicate.symm ▸ Nat.lt_succ_self 65535, rfl⟩⟩

theorem witness_DecodeFrameRuns :
    ((given resetFrame).inBuf = some resetFrame ∧ isFrame resetFrame 0xA4 4 0x466F [0x0B, 0x00, 0x00, 0x00]) ∧
    isFrame [0x5A, 0xA4, 0x00, 0x00, 0xCC, 0x7C] 0xA4 0 0x7CCC [] ∧
    ((given []).inBuf = some [] ∧
      ∀ (kind : Byte) (length crc : Half) (payload : List Byte), ¬ isFrame [] kind length crc payload) :=
  ⟨⟨rfl, resetFrame_isFrame⟩, ⟨0x00, 0x00, 0xCC, 0x7C, by decide +kernel⟩, rfl, no_frame_in_empty⟩

theorem witness_FrameRoundTrip : (given []).inBuf = some [] ∧ ([] : List Byte).length ≤ 65535 := ⟨rfl, by decide⟩

theorem witness_FrameSingleBitCorruption :
    ∃ (s t u : State) (f : List Byte), exec (.encodeFrame 0xA4 true) s = .next t ∧ t.res.out = some f ∧
      5 < f.length ∧ 7 < 8 ∧ u.inBuf = some (flipBit f 5 7) :=
  ⟨given [], _, given (flipBit (payloadFrameBytes 0xA4 []) 5 7), payloadFrameBytes 0xA4 [], rfl, rfl, by decide,
    by decide, rfl⟩

theorem witness_DecodePingResponseRuns :
    crc16 [[0x5A, 0xA7, 0x00, 0x02, 0x01, 0x50, 0x00, 0x00]] = le16 0xAA 0xEA ∧
    (given pingFrame).inBuf = some [0x5A, 0xA7, 0x00, 0x02, 0x01, 0x50, 0x00, 0x00, 0xAA, 0xEA] ∧
    (∀ patch minor major byte5 byte6 byte7 c0 c1 : Byte,
      ([0x5A, 0xA6] : List Byte) = [0x5A, 0xA7, patch, minor, major, byte5, byte6, byte7, c0, c1] →
      crc16 [[0x5A, 0xA7, patch, minor, major, byte5, byte6, byte7]] ≠ le16 c0 c1) :=
  ⟨by decide +kernel, rfl, by intros; simp_all⟩

theorem witness_EncodeCommandRuns :
    ((7 : Byte).toNat ≤ 7 ∧ ([0, 1, 2, 3, 4, 5, 6] : List Word).length = (7 : Byte).toNat ∧
      paramsHold (params [0, 1, 2, 3, 4, 5, 6]).param [0, 1, 2, 3, 4, 5, 6] ∧
      (32 : Half).toNat = 4 + 4 * (7 : Byte).toNat) ∧
    ((0 : Byte).toNat ≤ 7 ∧ ([] : List Word).length = (0 : Byte).toNat ∧ paramsHold State.reset.param [] ∧
      (4 : Half).toNat = 4 + 4 * (0 : Byte).toNat) ∧
    (7 < (8 : Byte).toNat ∧ 7 < (255 : Byte).toNat) ∧
    ((1 : Byte).toNat ≤ 7 ∧ (0 : Fin 7).val < (1 : Byte).toNat ∧ State.reset.param[(0 : Fin 7)] = none) := by
  refine ⟨⟨by decide, by decide, ?_, by decide⟩, ⟨by decide, by decide, ?_, by decide⟩, by decide, by decide⟩
  · unfold paramsHold; decide
  · unfold paramsHold; decide

theorem witness_DecodeCommandRuns :
    isCommand oneParamFrame 0xA4 8 0xD473 0x07 0x00 0x00 1 [0x00000001] ∧
    isCommand resetFrame 0xA4 4 0x466F 0x0B 0x00 0x00 0 [] ∧ (given resetFrame).inBuf = some resetFrame ∧
    (∀ (frameKind : Byte) (length crc : Half) (kind flag rsvd count : Byte) (ps : List Word),
      ¬ isCommand [] frameKind length crc kind flag rsvd count ps) :=
  ⟨oneParamFrame_isCommand, resetFrame_isCommand, rfl, fun _ _ _ _ _ _ _ _ ⟨_, _, h, _⟩ => no_frame_in_empty _ _ _ _ h⟩

/-- A generic response of whatever kind is configured: the frame the encoder builds. -/
theorem witness_DecodeGenericResponseRuns (generic : Byte) :
    ∃ (b : List Byte) (length crc : Half),
      isCommand b 0xA4 length crc generic 0x00 0x00 2 [0x00000000, 0x0000000B] := by
  let payload := commandBytes generic 0x00 0x00 2 [0x00000000, 0x0000000B]
  have hl : payload.length = 12 := commandBytes_length _ _ _ _ _
  have hh : frameHeader 0xA4 (lengthField 12) = [0x5A, 0xA4, 0x0C, 0x00] := by decide
  have hb : payloadFrameBytes 0xA4 payload =
      [0x5A, 0xA4, 0x0C, 0x00, (frameCrc 0xA4 payload).extractLsb' 0 8, (frameCrc 0xA4 payload).extractLsb' 8 8]
        ++ payload := by
    simp only [payloadFrameBytes, hl, hh, bytesLe16, List.cons_append, List.nil_append]
  refine ⟨payloadFrameBytes 0xA4 payload, 12, frameCrc 0xA4 payload, payload, [0, 0, 0, 0, 0x0B, 0, 0, 0],
    ⟨0x0C, 0x00, _, _, hb, by decide, ?_, ?_, ?_⟩, rfl, by decide, hl, rfl, ?_⟩
  · generalize frameCrc 0xA4 payload = c
    ext k hk
    interval_cases k <;> simp [le16]
  · rw [payloadFrameBytes_length, hl]
    rfl
  · rw [frameCrc, hl, hh]
  · intro k hk
    have : k = 0 ∨ k = 1 := by simp at hk; omega
    rcases this with rfl | rfl
    · exact ⟨0, 0, 0, 0, rfl, rfl, rfl, rfl, by decide⟩
    · exact ⟨0x0B, 0, 0, 0, rfl, rfl, rfl, rfl, by decide⟩

/-- A command that is no generic response, whatever kind is configured: one with no parameters. -/
theorem witness_DecodeGenericResponseRuns_shape :
    isCommand resetFrame 0xA4 4 0x466F 0x0B 0x00 0x00 0 [] ∧
      ((0x0B : Byte) ≠ Config.cce.cmdKindResponseGeneric ∨ (0 : Byte) ≠ 2) :=
  ⟨resetFrame_isCommand, .inr (by decide)⟩

theorem witness_DecodeAckRuns :
    (given [0x5A, Config.cce.frameKindAck]).inBuf = some [0x5A, Config.cce.frameKindAck] ∧
    (given []).inBuf = some [] ∧ ([] : List Byte) ≠ [0x5A, Config.cce.frameKindAck] := ⟨rfl, rfl, by simp⟩

theorem witness_CommandRoundTrip :
    (2 : Byte).toNat ≤ 7 ∧ ([5, 6] : List Word).length = (2 : Byte).toNat ∧ paramsHold (params [5, 6]).param [5, 6] := by
  refine ⟨by decide, by decide, ?_⟩
  unfold paramsHold
  decide

theorem witness_CommandSingleBitCorruption :
    ∃ (s t u : State) (f : List Byte), exec (.encodeCommand 0x0B false 0) s = .next t ∧ t.res.out = some f ∧
      9 < f.length ∧ 7 < 8 ∧ u.inBuf = some (flipBit f 9 7) :=
  ⟨State.reset, _, given (flipBit (commandFrameBytes 0x0B false []) 9 7), commandFrameBytes 0x0B false [], rfl, rfl,
    by decide, by decide, rfl⟩

theorem witness_FailureWritesOnlyStatus : Instr.isOperation .decodeFrame = true ∧
    ∃ t, exec .decodeFrame (given []) = .next t ∧ (t.res.status == some 0x01) = true :=
  ⟨by decide, next_of_nextIs (check := fun t => t.res.status == some 0x01) (by decide +kernel)⟩

theorem witness_StatusCodesPerOperation : Instr.isOperation .decodeAck = true ∧
    (∃ t, exec .decodeAck (given []) = .next t) ∧ (0xA : BitVec 4).toNat ≤ 0xA :=
  ⟨by decide, ⟨_, rfl⟩, by decide⟩

theorem witness_FailurePriority :
    ((starting 0x0000000B none).inBuf = none ∧ ∀ k : Fin 7, (starting 0x0000000B none).param[k] = none) ∧
    (∃ t, exec .decodeCommand (given []) = .next t ∧ (t.res.status == some 0x01) = true) :=
  ⟨by decide, next_of_nextIs (check := fun t => t.res.status == some 0x01) (by decide +kernel)⟩

theorem witness_StepKeepsResultsConsistent : resultsOk Results.unwritten ∧ ∃ t, step State.reset = .next t := by
  refine ⟨⟨?_, ?_, ?_, ?_, ?_, ?_, ?_⟩, _, rfl⟩ <;> simp [Results.unwritten]

end Sys2Proof.Tests
end

section
/-! SUPPORT. How an operation ends (10_state.md R26 to R32), said once for all operations; the invariant, the written
registers and the kept inputs are read off it. -/

namespace Sys2Proof.Machine

/-! ## The codes a codec can fail with (60_exceptions.md R202) -/

theorem encodeFrame_error {kind : Byte} {payload : Option (List Byte)} {e : StatusCode}
    (h : encodeFrame kind payload = .error e) : e = .payloadTooLong := by
  unfold encodeFrame at h
  split at h
  · cases h
  · split at h <;> cases h
    rfl

theorem decodeFrame_error {b : List Byte} {e : StatusCode} (h : decodeFrame b = .error e) : e = .malformedFrame := by
  unfold decodeFrame at h
  repeat' split at h
  all_goals cases h
  all_goals rfl

theorem decodePingResponse_error {o : PingOptionsOffset} {b : List Byte} {e : StatusCode}
    (h : decodePingResponse o b = .error e) : e = .malformedFrame := by
  unfold decodePingResponse at h
  repeat' split at h
  all_goals cases h
  all_goals rfl

theorem commandOf_error {r : Frame} {e : StatusCode} (h : commandOf r = .error e) : e = .malformedFrame := by
  unfold commandOf at h
  repeat' split at h
  all_goals cases h
  all_goals rfl

theorem decodeCommand_error {b : List Byte} {e : StatusCode} (h : decodeCommand b = .error e) :
    e = .malformedFrame := by
  unfold decodeCommand at h
  split at h
  · next hf => cases h; exact decodeFrame_error hf
  · exact commandOf_error h

theorem decodeGenericResponse_error {responseGeneric : Byte} {b : List Byte} {e : StatusCode}
    (h : decodeGenericResponse responseGeneric b = .error e) : e = .malformedFrame ∨ e = .unexpectedResponseShape := by
  unfold decodeGenericResponse at h
  split at h
  · next hc => cases h; exact .inl (decodeCommand_error hc)
  · repeat' split at h
    all_goals cases h
    all_goals exact .inr rfl

/-! ## What a codec that succeeds returns -/

/-- No frame the encoder builds is longer than the longest payload frame (R71). -/
theorem encodeFrame_ok_length {kind : Byte} {payload : Option (List Byte)} {b : List Byte}
    (h : encodeFrame kind payload = .ok b) : b.length ≤ 65541 := by
  unfold encodeFrame at h
  split at h
  · cases h; simp
  · split at h <;> cases h
    next hlen => simp only [maxPayload, payloadFrameBytes_length] at hlen ⊢; omega

/-- A decoded command is the command in a decoded frame (R151). -/
theorem decodeCommand_ok {b : List Byte} {c : Command} (h : decodeCommand b = .ok c) :
    ∃ r, decodeFrame b = .ok r ∧ commandOf r = .ok c := by
  unfold decodeCommand at h
  split at h
  · cases h
  · exact ⟨_, ‹_›, h⟩

/-- The count, the length and the parameters of a decoded command are in step (R151). -/
theorem decodeCommand_ok_count {b : List Byte} {c : Command} (h : decodeCommand b = .ok c) :
    c.count.toNat ≤ 7 ∧ c.length = BitVec.ofNat 16 (4 + 4 * c.count.toNat) ∧ c.params.length = c.count.toNat := by
  obtain ⟨r, hr, hc⟩ := decodeCommand_ok h
  obtain ⟨_, _, _, _, -, -, -, hlen, -⟩ := decodeFrame_ok hr
  obtain ⟨body, hpayload, hcount, hbody, -, -, hclen, -⟩ := commandOf_ok hc
  refine ⟨hcount, ?_, commandOf_params_length hc⟩
  have hval : c.length.toNat = 4 + 4 * c.count.toNat := by
    rw [hclen, hlen, hpayload]; simp only [List.length_cons]; omega
  rw [← hval, BitVec.ofNat_toNat, BitVec.setWidth_eq]

/-! ## How an operation ends -/

/-- What an operation can leave in the result registers beside STATUS = OK (R28). -/
inductive OkWrites : Instr → Results → Prop
  | crcInit : OkWrites .crcInit Results.unwritten
  | crcFeed : OkWrites .crcFeed Results.unwritten
  | crcRead (acc : Half) : OkWrites .crcRead { Results.unwritten with rCrc := some acc }
  | crc16 (acc : Half) : OkWrites .crc16 { Results.unwritten with rCrc := some acc }
  | encodeFrame {kind : Byte} {hasPayload : Bool} {payload : Option (List Byte)} {b : List Byte}
      (h : encodeFrame kind payload = .ok b) : OkWrites (.encodeFrame kind hasPayload) (outWrite b)
  | decodeFrame {b : List Byte} {r : Frame} (h : decodeFrame b = .ok r) : OkWrites .decodeFrame (frameResults r)
  | decodePingResponse (r : PingResponse) : OkWrites .decodePingResponse (pingResults r)
  | encodeCommand {kind : Byte} {hasData : Bool} {pcount : Byte} {ps : List Word} {b : List Byte}
      (h : encodeCommand kind hasData ps = .ok b) : OkWrites (.encodeCommand kind hasData pcount) (outWrite b)
  | decodeCommand {b : List Byte} {r : Command} (h : decodeCommand b = .ok r) :
      OkWrites .decodeCommand (commandResults r)
  | decodeGenericResponse (r : Word × Word) : OkWrites .decodeGenericResponse (genericResults r)
  | decodeAck (isAck : Bool) : OkWrites .decodeAck { Results.unwritten with rAck := some isAck }

/-- The two ends of an operation (R28, R200): it completes, with CRC_ACC changed only where its row lists it, or it
raises a code, which a CRC operation never does. -/
inductive Ends (instr : Instr) (s : State) : State → Prop
  | completes (acc : Half) (w : Results) (hw : OkWrites instr w)
      (hacc : Reg.crcAcc ∉ writtenOnOk instr → acc = s.crcAcc) :
      Ends instr s ({ s with crcAcc := acc }.complete w)
  | raises (e : StatusCode) (he : e ≠ .ok) (hcrc : instr.isCrcOperation = false) : Ends instr s (s.raise e)

/-- An operation that leaves CRC_ACC alone and completes. -/
theorem Ends.of_complete {instr : Instr} {w : Results} (s : State) (hw : OkWrites instr w) :
    Ends instr s (s.complete w) :=
  .completes s.crcAcc w hw fun _ => rfl

/-- An operation that ends with a codec's verdict. -/
theorem Ends.of_conclude {α : Type} {instr : Instr} {verdict : Except StatusCode α} {written : α → Results} (s : State)
    (hcrc : instr.isCrcOperation = false) (hok : ∀ a, verdict = .ok a → OkWrites instr (written a))
    (herr : ∀ e, verdict = .error e → e ≠ .ok) : Ends instr s (s.conclude verdict written) := by
  cases verdict with
  | ok a => exact .of_complete s (hok a rfl)
  | error e => exact .raises e (herr e rfl) hcrc

theorem execEncodeFrame_ends {s t : State} {kind : Byte} {hasPayload : Bool}
    (h : execEncodeFrame kind hasPayload s = .next t) : Ends (.encodeFrame kind hasPayload) s t := by
  have key : ∀ payload, Ends (.encodeFrame kind hasPayload) s (s.conclude (encodeFrame kind payload) outWrite) :=
    fun payload => .of_conclude s rfl (fun _ => .encodeFrame) fun e he => by simp [encodeFrame_error he]
  cases hasPayload with
  | true => obtain ⟨p, -, hp⟩ := withIn_next h; cases hp; exact key (some p)
  | false => cases h; exact key none

theorem execEncodeCommand_ends {s t : State} {kind : Byte} {hasData : Bool} {pcount : Byte}
    (h : execEncodeCommand kind hasData pcount s = .next t) : Ends (.encodeCommand kind hasData pcount) s t := by
  unfold execEncodeCommand at h
  split at h
  · cases h; exact .raises _ (by decide) rfl
  · obtain ⟨ps, -, hps⟩ := withParams_next h
    cases hps
    exact .of_conclude s rfl (fun _ => .encodeCommand) fun e he => by simp [encodeFrame_error he]

theorem execDecodeGenericResponse_ends {s t : State} (h : execDecodeGenericResponse s = .next t) :
    Ends .decodeGenericResponse s t := by
  obtain ⟨b, -, hb⟩ := withIn_next h
  cases hb
  refine .of_conclude s rfl (fun r _ => .decodeGenericResponse r) fun e he => ?_
  rcases decodeGenericResponse_error he with rfl | rfl <;> decide

theorem execDecodeAck_ends {s t : State} (h : execDecodeAck s = .next t) : Ends .decodeAck s t := by
  obtain ⟨b, hin, hb⟩ := withIn_next h
  split at hb
  · next hlen =>
    rw [inRead_below hin (by omega), inRead_below hin (by omega)] at hb
    cases hb
    exact .of_complete s (.decodeAck _)
  · cases hb; exact .of_complete s (.decodeAck _)

/-- Every operation that answers a next state ends in one of the two ways. -/
theorem exec_ends {instr : Instr} {s t : State} (hop : instr.isOperation = true) (h : exec instr s = .next t) :
    Ends instr s t := by
  cases instr with
  | crcInit => cases h; exact .completes _ _ .crcInit fun hn => absurd (List.mem_cons_self ..) hn
  | crcFeed =>
    obtain ⟨b, -, hb⟩ := withIn_next h
    cases hb
    exact .completes _ _ .crcFeed fun hn => absurd (List.mem_cons_self ..) hn
  | crcRead => cases h; exact .of_complete s (.crcRead _)
  | crc16 =>
    obtain ⟨b, -, hb⟩ := withIn_next h
    cases hb
    exact .completes _ _ (.crc16 _) fun hn => absurd (List.mem_cons_self ..) hn
  | encodeFrame kind hasPayload => exact execEncodeFrame_ends h
  | decodeFrame =>
    obtain ⟨b, -, hb⟩ := withIn_next h
    cases hb
    exact .of_conclude s rfl (fun _ => .decodeFrame) fun e he => by simp [decodeFrame_error he]
  | decodePingResponse =>
    obtain ⟨b, -, hb⟩ := withIn_next h
    cases hb
    exact .of_conclude s rfl (fun r _ => .decodePingResponse r) fun e he => by simp [decodePingResponse_error he]
  | encodeCommand kind hasData pcount => exact execEncodeCommand_ends h
  | decodeCommand =>
    obtain ⟨b, -, hb⟩ := withIn_next h
    cases hb
    exact .of_conclude s rfl (fun _ => .decodeCommand) fun e he => by simp [decodeCommand_error he]
  | decodeGenericResponse => exact execDecodeGenericResponse_ends h
  | decodeAck => exact execDecodeAck_ends h
  | reservedOpB | reservedOpC | reservedOpD | reservedOpE | reservedOpF =>
    cases h; exact .raises .illegalOperation (by decide) rfl
  | wireBareFrame | wirePingRequest | wireAck | wireNak | wirePayloadFrame | wireCommandFrame
  | wireGenericResponse | wirePingResponse => cases hop

/-- A wire format is a write of IN (log 5). -/
theorem exec_wireFormat {instr : Instr} (s : State) (hop : instr.isOperation = false) :
    ∃ b, exec instr s = .next (s.writeIn b) := by
  cases instr with
  | wireBareFrame | wirePingRequest | wireAck | wireNak | wirePayloadFrame | wireCommandFrame
  | wireGenericResponse | wirePingResponse => exact ⟨_, rfl⟩
  | crcInit | crcFeed | crcRead | crc16 | encodeFrame | decodeFrame | decodePingResponse | encodeCommand
  | decodeCommand | decodeGenericResponse | decodeAck | reservedOpB | reservedOpC | reservedOpD | reservedOpE
  | reservedOpF => cases hop

/-- STATUS tells the two ends apart: only the code OK is the byte 0 (R201). -/
theorem statusByte_eq_zero_iff (e : StatusCode) : statusByte e = 0x00 ↔ e = .ok := by
  cases e <;> decide

theorem statusByte_le (e : StatusCode) : (statusByte e).toNat ≤ 5 := by
  cases e <;> decide

/-! ## One step of the caller (70_reset_and_hazards.md R234) -/

theorem step_of_todo_cons {s : State} {c : CallerStep} {rest : List CallerStep} (h : s.todo = c :: rest) :
    step s = takeStep c { s with todo := rest } := by
  simp [step, nextStep, h]

theorem step_of_todo_nil {s : State} (h : s.todo = []) : step s = .next s := by
  simp [step, nextStep, h]

/-- A start runs an instruction or ends in ILLEGAL_OPERATION. -/
theorem start_next {s t : State} (h : start s = .next t) :
    (∃ instr, exec instr s = .next t) ∨ t = s.raise .illegalOperation := by
  unfold start at h
  split at h
  · cases h
  · split at h
    · exact .inl ⟨_, h⟩
    · cases h; exact .inr rfl

/-- A presented frame runs an instruction or is written to IN as it stands. -/
theorem presentFrame_next {s t : State} {form : WireForm} {b : List Byte} (h : presentFrame form b s = .next t) :
    (∃ instr, exec instr s = .next t) ∨ t = s.writeIn b := by
  unfold presentFrame at h
  split at h
  · exact .inl ⟨_, h⟩
  · cases h; exact .inr rfl

/-- A request word whose operation code is no reserved one is refused where a reserved field is not 0 (R83). -/
theorem decodeReq_of_reserved_field {w : Word} (hop : (reqOp w).toNat ≤ 0xA)
    (hrsvd : reqRsvd0 w ≠ 0 ∨ reqRsvd1 w ≠ 0) : ∃ e, decodeReq w = .error e := by
  unfold decodeReq
  rw [if_neg (by omega)]
  by_cases h0 : reqRsvd0 w = 0
  · exact ⟨.rsvd1NotZero, by
      rw [if_neg (not_not.2 h0), if_pos (hrsvd.resolve_left (not_not.2 h0))]⟩
  · exact ⟨.rsvd0NotZero, if_pos h0⟩

/-- Every operation code that is not reserved raises ILLEGAL_OPERATION on a reserved field that is not 0 (R83). -/
theorem illegalOnReservedBits_of_le {op : BitVec 4} (hop : op.toNat ≤ 0xA) : illegalOnReservedBits op := by
  intro s rest w htodo hreq hw hrsvd
  obtain ⟨e, he⟩ := decodeReq_of_reserved_field (hw ▸ hop) hrsvd
  rw [step_of_todo_cons htodo]
  simp only [takeStep, start, hreq, he]
  rfl

/-! ## The invariant of the result registers (R28, R200, R201) -/

theorem resultsOk_of_status_only {c : Byte} (h : c.toNat ≤ 5) : resultsOk (onlyStatus c) := by
  refine ⟨?_, fun _ => rfl, ?_, ?_, ?_, ?_, rfl⟩ <;> simp [onlyStatus, Results.unwritten, h]

theorem resultsOk_unwritten : resultsOk Results.unwritten := by
  refine ⟨nofun, fun _ => rfl, nofun, nofun, nofun, ?_, rfl⟩
  simp [Results.unwritten]

/-- A completed operation that wrote no command need answer only for OUT and R_KIND. -/
theorem resultsOk_of_no_command {w : Results} (hcount : w.rCmdPcount = none)
    (hparam : w.rParam = Results.unwritten.rParam)
    (hout : ∀ b, w.out = some b → b.length ≤ 65541 ∧ ∀ n, w.rLen = some n → n.toNat = b.length)
    (hkind : w.rKind.isSome = w.rFcrc.isSome) : resultsOk { w with status := some 0x00 } := by
  refine ⟨?_, ?_, fun b hb => (hout b hb).1, fun b n hb => (hout b hb).2 n, ?_, ?_, hkind⟩
  · simp
  · simp
  · simp [hcount]
  · simp [hcount, hparam, Results.unwritten]

/-- What an operation leaves when it completes satisfies the invariant. -/
theorem OkWrites.resultsOk {instr : Instr} {w : Results} (hw : OkWrites instr w) :
    resultsOk { w with status := some 0x00 } := by
  cases hw with
  | crcInit | crcFeed | crcRead | crc16 | decodePingResponse | decodeGenericResponse | decodeAck =>
    exact resultsOk_of_no_command rfl rfl nofun rfl
  | encodeFrame h | encodeCommand h =>
    refine resultsOk_of_no_command rfl rfl (fun b hb => ?_) rfl
    cases hb
    exact ⟨encodeFrame_ok_length h, nofun⟩
  | decodeFrame h =>
    obtain ⟨_, _, _, _, -, -, -, hlen, -⟩ := decodeFrame_ok h
    refine resultsOk_of_no_command rfl rfl (fun b hb => ?_) rfl
    cases hb
    refine ⟨by omega, fun n hn => ?_⟩
    cases hn
    exact hlen
  | @decodeCommand b c h =>
    obtain ⟨hcount, hlen, hparams⟩ := decodeCommand_ok_count h
    refine ⟨by simp, by simp, nofun, nofun, ?_, ?_, rfl⟩
    · intro n hn
      cases hn
      exact ⟨hcount, congrArg some hlen⟩
    · intro k
      simp [commandResults, hparams]

theorem Ends.inv {instr : Instr} {s t : State} (h : Ends instr s t) : t.inv := by
  cases h with
  | completes acc w hw hacc => exact hw.resultsOk
  | raises e he hcrc => exact resultsOk_of_status_only (statusByte_le e)

/-- Every instruction keeps the invariant: an operation sets up the result registers anew, a wire format leaves
them. -/
theorem exec_keeps_inv {instr : Instr} {s t : State} (hs : s.inv) (h : exec instr s = .next t) : t.inv := by
  cases hop : instr.isOperation with
  | true => exact (exec_ends hop h).inv
  | false =>
    obtain ⟨b, hb⟩ := exec_wireFormat s hop
    rw [hb] at h
    cases h
    exact hs

/-- Every step of the caller keeps the invariant. -/
theorem takeStep_keeps_inv {c : CallerStep} {s t : State} (hs : s.inv) (h : takeStep c s = .next t) : t.inv := by
  cases c with
  | write number v =>
    obtain ⟨_, rfl⟩ | ⟨_, rfl⟩ | ⟨_, _, rfl⟩ := callerWrite_next h <;> exact hs
  | present form b =>
    obtain ⟨_, hexec⟩ | rfl := presentFrame_next h
    · exact exec_keeps_inv hs hexec
    · exact hs
  | start =>
    obtain ⟨_, hexec⟩ | rfl := start_next h
    · exact exec_keeps_inv hs hexec
    · exact resultsOk_of_status_only (statusByte_le _)
  | read number =>
    obtain ⟨_, _, -, -, -, rfl⟩ := callerRead_next h
    exact hs
  | reset =>
    cases h
    exact resultsOk_unwritten

/-- Settles O50: only an operation and a reset touch the result registers, and both leave them consistent. -/
theorem stepKeepsResultsConsistent : Obligations.StepKeepsResultsConsistent := by
  intro s t hs h
  cases htodo : s.todo with
  | nil => rw [step_of_todo_nil htodo] at h; cases h; exact hs
  | cons c rest => rw [step_of_todo_cons htodo] at h; exact takeStep_keeps_inv (s := { s with todo := rest }) hs h

end Sys2Proof.Machine
end

section
/-! SUPPORT. Which registers hold a value before and after an operation (10_state.md R28, R31, R32). -/

namespace Sys2Proof.Machine

/-! ## The result registers are cleared at the start (R31)

Each shared operation answers the same whatever the result registers held; so does every operation built of them. -/

@[simp] theorem complete_ignores_res (s : State) (r w : Results) :
    { s with res := r }.complete w = s.complete w := rfl

@[simp] theorem raise_ignores_res (s : State) (r : Results) (e : StatusCode) :
    { s with res := r }.raise e = s.raise e := rfl

@[simp] theorem conclude_ignores_res {α : Type} (s : State) (r : Results) (v : Except StatusCode α) (w : α → Results) :
    { s with res := r }.conclude v w = s.conclude v w := by
  cases v <;> rfl

@[simp] theorem withIn_ignores_res (s : State) (r : Results) (run : List Byte → Answer) :
    withIn { s with res := r } run = withIn s run := rfl

@[simp] theorem inRead_ignores_res (s : State) (r : Results) (i : Nat) (run : Byte → Answer) :
    inRead { s with res := r } i run = inRead s i run := rfl

@[simp] theorem withParams_ignores_res (s : State) (r : Results) (n : Nat) (run : List Word → Answer) :
    withParams { s with res := r } n run = withParams s n run := rfl

theorem exec_ignores_res {instr : Instr} (s : State) (r : Results) (hop : instr.isOperation = true) :
    exec instr { s with res := r } = exec instr s := by
  cases instr with
  | crcInit | crcFeed | crcRead | crc16 | reservedOpB | reservedOpC | reservedOpD | reservedOpE | reservedOpF => rfl
  | decodeAck => simp [exec, execDecodeAck, ackAnswer]
  | encodeFrame => simp [exec, execEncodeFrame]
  | decodeFrame => simp [exec, execDecodeFrame]
  | decodePingResponse => simp [exec, execDecodePingResponse]
  | encodeCommand => simp [exec, execEncodeCommand]
  | decodeCommand => simp [exec, execDecodeCommand]
  | decodeGenericResponse => simp [exec, execDecodeGenericResponse]
  | wireBareFrame | wirePingRequest | wireAck | wireNak | wirePayloadFrame | wireCommandFrame
  | wireGenericResponse | wirePingResponse => cases hop

/-! ## What an operation changes (R28, R32) -/

theorem Ends.keeps_inputs {instr : Instr} {s t : State} (h : Ends instr s t) :
    t.req = s.req ∧ t.inBuf = s.inBuf ∧ t.param = s.param ∧ t.todo = s.todo ∧ t.got = s.got := by
  cases h <;> exact ⟨rfl, rfl, rfl, rfl, rfl⟩

theorem Ends.crcAcc {instr : Instr} {s t : State} (h : Ends instr s t) (hacc : Reg.crcAcc ∉ writtenOnOk instr) :
    t.crcAcc = s.crcAcc := by
  cases h with
  | completes acc w hw hkept => exact hkept hacc
  | raises => rfl

theorem crcAcc_not_written {instr : Instr} (h : instr.isCrcOperation = false) : Reg.crcAcc ∉ writtenOnOk instr := by
  have hrow : (writtenOnOk instr).contains .crcAcc = false := by
    cases instr with
    | crcInit | crcFeed | crcRead | crc16 => cases h
    | _ => rfl
  simpa using hrow

/-- STATUS = OK is the completed end. -/
theorem Ends.of_status_ok {instr : Instr} {s t : State} (h : Ends instr s t) (hok : t.res.status = some 0x00) :
    ∃ acc w, OkWrites instr w ∧ t = { s with crcAcc := acc }.complete w := by
  cases h with
  | completes acc w hw => exact ⟨acc, w, hw, rfl⟩
  | raises e he => exact absurd ((statusByte_eq_zero_iff e).1 (Option.some.inj hok)) he

/-- Any other STATUS is the failed end, which writes STATUS only (R28). -/
theorem Ends.of_status_not_ok {instr : Instr} {s t : State} (h : Ends instr s t) (hfail : t.res.status ≠ some 0x00) :
    ∃ code, t = { s with res := onlyStatus code } := by
  cases h with
  | completes => exact absurd rfl hfail
  | raises e => exact ⟨statusByte e, rfl⟩

/-- The table of R28 for a completed operation, register by register; R_PARAM has a condition of its own. -/
theorem OkWrites.written_iff {instr : Instr} {w : Results} (hw : OkWrites instr w) (s : State) {x : Reg}
    (hx : isResultReg x = true) (hstatus : x ≠ .status) (hparam : ∀ k : Fin 7, x ≠ .rParam k) :
    (regValue (s.complete w) x).isSome = true ↔ x ∈ writtenOnOk instr := by
  have hrow : (regValue (s.complete w) x).isSome = (writtenOnOk instr).contains x := by
    cases x with
    | req | inBuf | inLen | param | crcAcc => cases hx
    | status => exact absurd rfl hstatus
    | rParam k => exact absurd rfl (hparam k)
    | out | outLen | rCrc | rKind | rLen | rFcrc | rPatch | rMinor | rMajor | rOptions | rCmdKind | rCmdFlag
    | rCmdRsvd | rCmdPcount | rStatusCode | rEchoedKind | rAck => cases hw <;> rfl
  rw [hrow, List.contains_iff_mem]

/-- A count stands only where a command was decoded. -/
theorem OkWrites.of_count {instr : Instr} {w : Results} (hw : OkWrites instr w) {n : Byte}
    (h : w.rCmdPcount = some n) : instr = .decodeCommand := by
  cases hw with
  | decodeCommand => rfl
  | _ => cases h

/-- The parameters below the count are written, and only by DECODE_COMMAND. -/
theorem OkWrites.param_written_iff {instr : Instr} {w : Results} (hw : OkWrites instr w) (k : Fin 7) :
    w.rParam[k].isSome = true ↔ instr = .decodeCommand ∧ ∃ n : Byte, w.rCmdPcount = some n ∧ k.val < n.toNat := by
  obtain ⟨-, -, -, -, -, hparam, -⟩ := hw.resultsOk
  refine (hparam k).trans ⟨?_, And.right⟩
  rintro ⟨n, hn, hk⟩
  exact ⟨hw.of_count hn, n, hn, hk⟩

/-- After an operation STATUS and the registers of its row hold values, and no other result register does. -/
theorem Ends.written_cases {instr : Instr} {s t : State} (h : Ends instr s t) {x : Reg} (hx : isResultReg x = true)
    (hwritten : (regValue t x).isSome = true) :
    x = .status ∨ x ∈ writtenOnOk instr ∨ (instr = .decodeCommand ∧ ∃ k : Fin 7, x = .rParam k) := by
  by_cases hok : t.res.status = some 0x00
  · obtain ⟨acc, w, hw, rfl⟩ := h.of_status_ok hok
    by_cases hparam : ∃ k, x = .rParam k
    · obtain ⟨k, rfl⟩ := hparam
      have hk : w.rParam[k].isSome = true := by simpa [regValue] using hwritten
      exact .inr (.inr ⟨((hw.param_written_iff k).1 hk).1, k, rfl⟩)
    · by_cases hstatus : x = .status
      · exact .inl hstatus
      · exact .inr (.inl ((hw.written_iff _ hx hstatus (not_exists.1 hparam)).1 hwritten))
  · obtain ⟨code, rfl⟩ := h.of_status_not_ok hok
    cases x with
    | status => exact .inl rfl
    | _ => simp [regValue, onlyStatus, Results.unwritten, isResultReg] at hx hwritten

/-- Settles O19: the shared operations do not look at the result registers, and the two ends of an operation say what
it leaves. -/
theorem resultsAreClearedAtStart : Obligations.ResultsAreClearedAtStart := by
  intro instr s r hop
  refine ⟨exec_ignores_res s r hop, fun t h => ?_⟩
  have hends := exec_ends hop h
  obtain ⟨hreq, hin, hparam, -, -⟩ := hends.keeps_inputs
  exact ⟨hreq, hin, hparam, fun hcrc => hends.crcAcc (crcAcc_not_written hcrc), fun x => hends.written_cases⟩

/-- Settles O20: STATUS tells the two ends apart, and each end writes what the table of R28 gives it. -/
theorem writtenRegistersPerOperation : Obligations.WrittenRegistersPerOperation := by
  refine ⟨fun op hop => illegalOnReservedBits_of_le (by omega), fun instr s t hop h => ?_⟩
  have hends := exec_ends hop h
  refine ⟨fun hcrc => ?_, fun hok => ?_, hends.of_status_not_ok⟩
  · cases hends with
    | completes => rfl
    | raises e he hnot => exact absurd hcrc (by simp [hnot])
  · have hacc : t.crcAcc ≠ s.crcAcc → Reg.crcAcc ∈ writtenOnOk instr := fun hne =>
      by_contra fun hnot => hne (hends.crcAcc hnot)
    obtain ⟨acc, w, hw, rfl⟩ := hends.of_status_ok hok
    exact ⟨fun x => hw.written_iff _, hw.param_written_iff, hacc⟩

/-- Settles O21: both ends of an operation keep the inputs and the caller's side. -/
theorem operationsKeepTheInputs : Obligations.OperationsKeepTheInputs :=
  fun _ _ _ hop h => (exec_ends hop h).keeps_inputs

end Sys2Proof.Machine
end

section
/-! SUPPORT. What an unwritten register stops (10_state.md R30), and the register table as the caller reads and writes
it (R21). -/

namespace Sys2Proof.Machine

/-! ## Reading what nothing has written (R30) -/

/-- An operation that reads IN does not run while IN is unwritten. -/
theorem exec_of_in_unwritten {instr : Instr} {s : State} (hreads : readsIn instr = true) (hin : s.inBuf = none) :
    exec instr s = .fault (.readUnwritten .inBuf) := by
  cases instr with
  | crcFeed | crc16 | decodeFrame | decodePingResponse | decodeCommand | decodeGenericResponse | decodeAck =>
    exact withIn_none hin _
  | encodeFrame kind hasPayload => obtain rfl : hasPayload = true := hreads; exact withIn_none hin _
  | _ => cases hreads

/-- The first unwritten entry of a parameter file is the one that is named. -/
theorem writtenPrefix_first_unwritten {ps : List (Option Word)} {i n : Nat} (k : Nat) (hi : i < n)
    (hnone : ps[i]? = some none) (hbelow : ∀ j < i, ps[j]? ≠ some none) :
    writtenPrefix ps k n = .error (k + i) := by
  induction ps generalizing k i n with
  | nil => cases hnone
  | cons p ps ih =>
    obtain ⟨n, rfl⟩ : ∃ m, n = m + 1 := ⟨n - 1, by omega⟩
    cases i with
    | zero =>
      obtain rfl : p = none := Option.some.inj hnone
      rfl
    | succ i =>
      cases p with
      | none => exact absurd rfl (hbelow 0 (Nat.succ_pos i))
      | some v =>
        have htail := ih (k + 1) (Nat.lt_of_succ_lt_succ hi) hnone fun j hj => hbelow (j + 1) (Nat.succ_lt_succ hj)
        simp only [writtenPrefix, htail]
        congr 1
        omega

theorem withParams_first_unwritten {s : State} {n : Nat} {k : Fin 7} (hk : k.val < n) (hnone : s.param[k] = none)
    (hbelow : ∀ j : Fin 7, j.val < k.val → s.param[j] ≠ none) (run : List Word → Answer) :
    withParams s n run = .fault (.readUnwritten (.param k)) := by
  have hget : ∀ j : Fin 7, s.param.toList[j.val]? = some s.param[j] := fun j => by simp
  have hprefix : writtenPrefix s.param.toList 0 n = .error (0 + k.val) := by
    refine writtenPrefix_first_unwritten 0 hk (by rw [hget, hnone]) fun j hj => ?_
    have hj7 : j < 7 := by omega
    rw [hget ⟨j, hj7⟩]
    exact fun h => hbelow ⟨j, hj7⟩ hj (Option.some.inj h)
  simp [withParams, hprefix]

/-! ## The register table as the caller sees it (R21) -/

theorem callerReads_of_isResultReg {r : Reg} (h : isResultReg r = true) : callerReads r = true := by
  cases r with
  | req | inBuf | param | crcAcc => cases h
  | _ => rfl

theorem callerRead_of_unwritten {s : State} {number : Nat} {r : Reg} (hr : regOf number = some r)
    (hread : callerReads r = true) (hv : regValue s r = none) : callerRead number s = .fault (.readUnwritten r) := by
  simp [callerRead, hr, hread, hv]

theorem callerRead_of_not_readable {s : State} {number : Nat} {r : Reg} (hr : regOf number = some r)
    (hread : callerReads r = false) : callerRead number s = .refused (.notReadableByCaller number) := by
  simp [callerRead, hr, hread]

theorem callerRead_of_unassigned {s : State} {number : Nat} (hr : regOf number = none) :
    callerRead number s = .refused (.noSuchRegister number) := by
  simp [callerRead, hr]

/-- A readable register that stands in the field `field` gives the field's value at the register's width. -/
theorem callerRead_of_field {α : Type} {s : State} {number : Nat} {field : Option α} {v : α} {width : α → RegValue}
    (r : Reg) (hr : regOf number = some r) (hread : callerReads r = true) (hfield : regValue s r = field.map width)
    (hv : field = some v) : callerRead number s = .next { s with got := s.got ++ [width v] } := by
  simp [callerRead, hr, hread, hfield, hv]

theorem callerWrite_of_unassigned {s : State} {number : Nat} {v : RegValue} (hr : regOf number = none) :
    callerWrite number v s = .refused (.noSuchRegister number) := by
  simp [callerWrite, hr]

/-- The access column of R21 gives no register both a read and a write, and CRC_ACC neither. -/
theorem callerWrite_of_not_writable {s : State} {number : Nat} {v : RegValue} {r : Reg} (hr : regOf number = some r)
    (hnot : callerReads r = true ∨ r = .crcAcc) :
    callerWrite number v s = .refused (.notWritableByCaller number) := by
  cases r with
  | req | inBuf | param => simp [callerReads] at hnot
  | _ => simp [callerWrite, hr]

theorem callerWrite_param {s : State} {number : Nat} {w : Word} {k : Fin 7} (hr : regOf number = some (.param k)) :
    callerWrite number (.u32 w) s = .next { s with param := s.param.set k (some w) } := by
  simp [callerWrite, hr]

/-! ### The numbers of R21 -/

theorem regOf_param (k : Fin 7) : regOf (3 + k.val) = some (.param k) := by
  fin_cases k <;> rfl

theorem regOf_rParam (k : Fin 7) : regOf (32 + k.val) = some (.rParam k) := by
  fin_cases k <;> rfl

theorem regOf_readable {number : Nat}
    (h : number = 2 ∨ (16 ≤ number ∧ number ≤ 30) ∨ (32 ≤ number ∧ number ≤ 41)) :
    ∃ r, regOf number = some r ∧ callerReads r = true := by
  obtain rfl | ⟨hlow, hhigh⟩ | ⟨hlow, hhigh⟩ := h
  · exact ⟨_, rfl, rfl⟩
  all_goals interval_cases number <;> exact ⟨_, rfl, rfl⟩

theorem regOf_not_readable {number : Nat}
    (h : number = 0 ∨ number = 1 ∨ (3 ≤ number ∧ number ≤ 9) ∨ number = 48) :
    ∃ r, regOf number = some r ∧ callerReads r = false := by
  obtain rfl | rfl | ⟨hlow, hhigh⟩ | rfl := h
  case inr.inr.inl =>
    obtain ⟨k, rfl⟩ : ∃ k : Fin 7, number = 3 + k.val := ⟨⟨number - 3, by omega⟩, by simp only; omega⟩
    exact ⟨_, regOf_param k, rfl⟩
  all_goals exact ⟨_, rfl, rfl⟩

/-- The numbers no register has (R21, 93 I13). -/
theorem regOf_unassigned {number : Nat} (h : (10 ≤ number ∧ number ≤ 15) ∨ number = 31 ∨
    (42 ≤ number ∧ number ≤ 47) ∨ 49 ≤ number) : regOf number = none := by
  unfold regOf
  split
  case h_37 => rfl
  all_goals omega

/-- Settles O18: each read of R30 at the place that makes it. -/
theorem unwrittenReadsFault : Obligations.UnwrittenReadsFault := by
  refine ⟨fun s rest htodo hreq => ?_, fun _ _ => exec_of_in_unwritten, ?_, ?_, fun _ => rfl⟩
  · rw [step_of_todo_cons htodo]
    simp [takeStep, start, hreq]
  · intro s kind hasData pcount k hcount hk hnone hbelow
    have hnot : ¬ maxParams < pcount.toNat := Nat.not_lt.2 hcount
    simp only [exec, execEncodeCommand, if_neg hnot]
    exact withParams_first_unwritten hk hnone hbelow _
  · intro s rest number r htodo hr hres hv
    rw [step_of_todo_cons htodo]
    exact callerRead_of_unwritten hr (callerReads_of_isResultReg hres) hv

/-- Settles O22: the number names the register, and a readable register gives the value of its field. -/
theorem callerReadsTheRegisterTable : Obligations.CallerReadsTheRegisterTable := by
  refine ⟨fun _ _ _ => step_of_todo_cons, fun _ _ h => callerRead_of_unassigned (regOf_unassigned h),
    fun s number h => ?notReadable, fun s b => ?inLen, fun s b h => ?out, fun s v => ?u8, fun s v => ?u16,
    fun s v => ?u32, fun s v => ?rAck⟩
  case notReadable =>
    obtain ⟨r, hr, hread⟩ := regOf_not_readable h
    exact callerRead_of_not_readable hr hread
  case inLen => exact callerRead_of_field (width := fun b : List Byte => .count b.length) .inLen rfl rfl rfl
  case out =>
    exact ⟨callerRead_of_field .out rfl rfl rfl h,
      callerRead_of_field (width := fun b : List Byte => .count b.length) .outLen rfl rfl rfl h⟩
  case u8 =>
    exact ⟨callerRead_of_field .status rfl rfl rfl, callerRead_of_field .rKind rfl rfl rfl,
      callerRead_of_field .rPatch rfl rfl rfl, callerRead_of_field .rMinor rfl rfl rfl,
      callerRead_of_field .rMajor rfl rfl rfl, callerRead_of_field .rCmdKind rfl rfl rfl,
      callerRead_of_field .rCmdFlag rfl rfl rfl, callerRead_of_field .rCmdRsvd rfl rfl rfl,
      callerRead_of_field .rCmdPcount rfl rfl rfl⟩
  case u16 =>
    exact ⟨callerRead_of_field .rCrc rfl rfl rfl, callerRead_of_field .rLen rfl rfl rfl,
      callerRead_of_field .rFcrc rfl rfl rfl, callerRead_of_field .rOptions rfl rfl rfl⟩
  case u32 =>
    exact ⟨fun k => callerRead_of_field (.rParam k) (regOf_rParam k) rfl rfl,
      callerRead_of_field .rStatusCode rfl rfl rfl, callerRead_of_field .rEchoedKind rfl rfl rfl⟩
  case rAck => exact callerRead_of_field .rAck rfl rfl rfl

/-- Settles O23: the number names the register, and only REQ, IN and PARAM are writable. -/
theorem callerWritesTheRegisterTable : Obligations.CallerWritesTheRegisterTable := by
  refine ⟨fun _ _ _ _ => step_of_todo_cons, fun _ _ => rfl, fun _ _ => rfl,
    fun _ _ k => callerWrite_param (regOf_param k), fun s v number h => ?_,
    fun _ _ _ h => callerWrite_of_unassigned (regOf_unassigned h)⟩
  by_cases hacc : number = 48
  · subst hacc
    exact callerWrite_of_not_writable (r := .crcAcc) rfl (.inr rfl)
  · obtain ⟨r, hr, hread⟩ := regOf_readable (number := number) (by omega)
    exact callerWrite_of_not_writable hr (.inl hread)

end Sys2Proof.Machine
end

section
/-! SUPPORT. The two buffers: the byte order of their fields (20_memory.md R53, 00_scope.md R9), reads of IN inside its
length (R51), and what running an instruction again changes (R58). -/

namespace Sys2Proof.Machine

/-! ## Byte order (R9, R53) -/

@[simp] theorem bytesLe16_le16 (lo hi : Byte) : bytesLe16 (le16 lo hi) = [lo, hi] := by
  simp only [bytesLe16, List.cons.injEq, and_true]
  constructor
  all_goals ext k hk; interval_cases k <;> simp [le16]

@[simp] theorem bytesLe32_le32 (b0 b1 b2 b3 : Byte) : bytesLe32 (le32 b0 b1 b2 b3) = [b0, b1, b2, b3] := by
  simp only [bytesLe32, List.cons.injEq, and_true]
  refine ⟨?_, ?_, ?_, ?_⟩
  all_goals ext k hk; interval_cases k <;> simp [le32]

/-- The value of a 16-bit word from its bytes, the first byte lowest. -/
theorem toNat_of_bytesLe16 {v : Half} {lo hi : Byte} (h : bytesLe16 v = [lo, hi]) :
    v.toNat = lo.toNat + 256 * hi.toNat := by
  cases h
  simp only [BitVec.extractLsb'_toNat, Nat.shiftRight_eq_div_pow]
  omega

/-- The value of a 32-bit word from its bytes, the first byte lowest. -/
theorem toNat_of_bytesLe32 {v : Word} {b0 b1 b2 b3 : Byte} (h : bytesLe32 v = [b0, b1, b2, b3]) :
    v.toNat = b0.toNat + 256 * b1.toNat + 65536 * b2.toNat + 16777216 * b3.toNat := by
  cases h
  simp only [BitVec.extractLsb'_toNat, Nat.shiftRight_eq_div_pow]
  omega

/-- The first word of a byte string that begins with a word's bytes is that word. -/
theorem wordsLe_bytesLe32_append (v : Word) (rest : List Byte) : wordsLe (bytesLe32 v ++ rest) = v :: wordsLe rest := by
  have hv : le32 (v.extractLsb' 0 8) (v.extractLsb' 8 8) (v.extractLsb' 16 8) (v.extractLsb' 24 8) = v := by
    ext k hk
    interval_cases k <;> simp [le32]
  simp only [bytesLe32, List.cons_append, List.nil_append, wordsLe, hv]

@[simp] theorem wordsLe_flatMap_bytesLe32 (vs : List Word) : wordsLe (vs.flatMap bytesLe32) = vs := by
  induction vs with
  | nil => rfl
  | cons v vs ih => rw [List.flatMap_cons, wordsLe_bytesLe32_append, ih]

/-- Settles O9: the bytes of a field bit by bit, its value from its bytes, the words by induction on the list. -/
theorem fieldsAreLittleEndian : Obligations.FieldsAreLittleEndian :=
  ⟨fun lo hi => ⟨toNat_of_bytesLe16 (bytesLe16_le16 lo hi), bytesLe16_le16 lo hi⟩,
    fun b0 b1 b2 b3 => ⟨toNat_of_bytesLe32 (bytesLe32_le32 b0 b1 b2 b3), bytesLe32_le32 b0 b1 b2 b3⟩,
    wordsLe_flatMap_bytesLe32⟩

/-! ## The faults of an instruction (R30, R51) -/

/-- An operation that reads IN faults on an unwritten IN, or in what it does with the bytes. -/
theorem withIn_fault {s : State} {run : List Byte → Answer} {f : Fault} (h : withIn s run = .fault f) :
    f = .readUnwritten .inBuf ∨ ∃ b, s.inBuf = some b ∧ run b = .fault f := by
  cases hin : s.inBuf with
  | none => rw [withIn_none hin] at h; cases h; exact .inl rfl
  | some b => rw [withIn_some hin] at h; exact .inr ⟨b, rfl, h⟩

/-- An operation that answers a next state for every byte string faults only on an unwritten IN. -/
theorem withIn_next_fault {s : State} {after : List Byte → State} {f : Fault}
    (h : withIn s (fun b => .next (after b)) = .fault f) : ∃ r, f = .readUnwritten r := by
  obtain rfl | ⟨_, -, hrun⟩ := withIn_fault h
  · exact ⟨_, rfl⟩
  · cases hrun

/-- An operation that answers a next state for all parameters faults only on an unwritten one. -/
theorem withParams_next_fault {s : State} {n : Nat} {after : List Word → State} {f : Fault}
    (h : withParams s n (fun vs => .next (after vs)) = .fault f) : ∃ r, f = .readUnwritten r := by
  unfold withParams at h
  split at h <;> cases h
  exact ⟨_, rfl⟩

theorem execEncodeCommand_fault {s : State} {kind : Byte} {hasData : Bool} {pcount : Byte} {f : Fault}
    (h : execEncodeCommand kind hasData pcount s = .fault f) : ∃ r, f = .readUnwritten r := by
  unfold execEncodeCommand at h
  split at h
  · cases h
  · exact withParams_next_fault h

/-- DECODE_ACK, the one operation that reads IN by index, does so only where the index is below IN_LEN (R154). -/
theorem execDecodeAck_fault {s : State} {f : Fault} (h : execDecodeAck s = .fault f) : ∃ r, f = .readUnwritten r := by
  obtain rfl | ⟨b, hin, hb⟩ := withIn_fault h
  · exact ⟨_, rfl⟩
  · split at hb
    · next hlen =>
      rw [inRead_below hin (by omega), inRead_below hin (by omega)] at hb
      cases hb
    · cases hb

/-- The one fault an instruction can end in is ReadUnwritten. -/
theorem exec_fault {instr : Instr} {s : State} {f : Fault} (h : exec instr s = .fault f) :
    ∃ r, f = .readUnwritten r := by
  cases instr with
  | crcFeed | crc16 | decodeFrame | decodePingResponse | decodeCommand | decodeGenericResponse =>
    exact withIn_next_fault h
  | encodeFrame kind hasPayload =>
    cases hasPayload with
    | true => exact withIn_next_fault h
    | false => cases h
  | encodeCommand => exact execEncodeCommand_fault h
  | decodeAck => exact execDecodeAck_fault h
  | _ => cases h

/-- Settles O10: InRead by its two cases, and every fault of an instruction is ReadUnwritten. -/
theorem noReadPastTheEndOfIn : Obligations.NoReadPastTheEndOfIn := by
  refine ⟨fun s b index run hin => ⟨fun v hv => ?_, fun hpast => inRead_past hin hpast run⟩,
    fun instr s index h => ?_⟩
  · obtain ⟨hlt, rfl⟩ := List.getElem?_eq_some_iff.1 hv
    exact inRead_below hin hlt run
  · obtain ⟨_, hr⟩ := exec_fault h
    cases hr

/-! ## Running an instruction again (R32, R58) -/

/-- The operations that write CRC_ACC, CRC_FEED aside, do not look at the value it held. -/
theorem exec_ignores_crcAcc {instr : Instr} (s : State) (acc : Half) (hne : instr ≠ .crcFeed)
    (hacc : Reg.crcAcc ∈ writtenOnOk instr) : exec instr { s with crcAcc := acc } = exec instr s := by
  have hrow : (writtenOnOk instr).contains .crcAcc = true := by simpa using hacc
  cases instr with
  | crcInit | crc16 => rfl
  | crcFeed => exact absurd rfl hne
  | _ => cases hrow

/-- An operation other than CRC_FEED keeps the inputs, and keeps CRC_ACC or does not look at it. -/
theorem exec_operation_rerun {instr : Instr} {s t : State} (hop : instr.isOperation = true) (hne : instr ≠ .crcFeed)
    (h : exec instr s = .next t) : exec instr t = exec instr s := by
  have hends := exec_ends hop h
  obtain ⟨hreq, hin, hparam, htodo, hgot⟩ := hends.keeps_inputs
  have ht : t = { s with crcAcc := t.crcAcc, res := t.res } := by
    rw [← hreq, ← hin, ← hparam, ← htodo, ← hgot]
  rw [ht, exec_ignores_res { s with crcAcc := t.crcAcc } t.res hop]
  by_cases hacc : Reg.crcAcc ∈ writtenOnOk instr
  · exact exec_ignores_crcAcc s t.crcAcc hne hacc
  · rw [hends.crcAcc hacc]

/-- A wire format writes the same bytes to IN in every state (log 5). -/
theorem exec_wireFormat_bytes {instr : Instr} (hop : instr.isOperation = false) :
    ∃ b, ∀ s, exec instr s = .next (s.writeIn b) := by
  cases instr with
  | wireBareFrame | wirePingRequest | wireAck | wireNak | wirePayloadFrame | wireCommandFrame
  | wireGenericResponse | wirePingResponse => exact ⟨_, fun _ => rfl⟩
  | _ => cases hop

/-- Every instruction but CRC_FEED answers the state it left when it is run again. -/
theorem exec_rerun {instr : Instr} {s t : State} (hne : instr ≠ .crcFeed) (h : exec instr s = .next t) :
    exec instr t = .next t := by
  cases hop : instr.isOperation with
  | true => rw [exec_operation_rerun hop hne h, h]
  | false =>
    obtain ⟨b, hb⟩ := exec_wireFormat_bytes hop
    rw [hb] at h
    cases h
    exact hb _

/-- CRC_FEED of the byte 0x01 moves CRC_ACC from the seed, and moves it on from there. -/
theorem crcFeed_rerun_differs : ∃ s t : State, exec .crcFeed s = .next t ∧ exec .crcFeed t ≠ .next t := by
  refine ⟨{ State.reset with inBuf := some [0x01] }, _, rfl, fun h => ?_⟩
  injection h with hstate
  exact absurd (congrArg State.crcAcc hstate) (by decide +kernel)

/-- Settles O11: an operation changes nothing that its answer depends on, a wire format writes the same bytes again,
and a caller's read adds to what the caller has read. -/
theorem rerunGivesTheSame : Obligations.RerunGivesTheSame := by
  refine ⟨fun _ _ _ => exec_rerun, crcFeed_rerun_differs, fun s t number rest htodo h => ?_⟩
  rw [step_of_todo_cons htodo] at h
  obtain ⟨_, _, -, -, -, rfl⟩ := callerRead_next h
  rfl

end Sys2Proof.Machine
end

section
/-! SUPPORT. The wire formats (30_encoding.md R70 to R77): the decoder reads back what the encoder writes, and the
encoder writes what the decoder reads. -/

namespace Sys2Proof.Machine

/-! ## Payload frames (R71, R121) -/

theorem le16_bytes (v : Half) : le16 (v.extractLsb' 0 8) (v.extractLsb' 8 8) = v := by
  ext k hk
  interval_cases k <;> simp [le16]

theorem toNat_lengthField {n : Nat} (h : n ≤ maxPayload) : (lengthField n).toNat = n := by
  rw [lengthField, BitVec.toNat_ofNat, Nat.mod_eq_of_lt]
  exact Nat.lt_succ_of_le h

/-- A payload frame is decoded to the fields it was built of (R71, R121). -/
theorem decodeFrame_payloadFrameBytes (kind : Byte) {payload : List Byte} (h : payload.length ≤ maxPayload) :
    decodeFrame (payloadFrameBytes kind payload) =
      .ok { kind := kind, length := lengthField payload.length, crc := frameCrc kind payload, payload := payload } := by
  have hlen := toNat_lengthField h
  simp only [payloadFrameBytes, frameHeader, bytesLe16, List.cons_append, List.nil_append, decodeFrame, ne_eq,
    not_true_eq_false, if_false, le16_bytes, hlen]
  rw [if_neg, if_neg]
  · simp [frameCrc, frameHeader, bytesLe16]
  · simp [frameHeaderLen]; omega

/-- What is decoded as a frame is the payload frame of its fields (R71, R121). -/
theorem payloadFrameBytes_of_decodeFrame {b : List Byte} {r : Frame} (h : decodeFrame b = .ok r) :
    b = payloadFrameBytes r.kind r.payload := by
  obtain ⟨l0, l1, c0, c1, rfl, hlength, -, hpayload, hcrc⟩ := decodeFrame_ok h
  have hl : lengthField r.payload.length = le16 l0 l1 := by
    rw [lengthField, ← hpayload, BitVec.ofNat_toNat, BitVec.setWidth_eq, hlength]
  have hc : frameCrc r.kind r.payload = le16 c0 c1 := by
    rw [frameCrc, hl, frameHeader, bytesLe16_le16, hcrc]
  rw [payloadFrameBytes, hl, hc, frameHeader, bytesLe16_le16, bytesLe16_le16]
  rfl

/-! ## Commands (R72, R151) -/

/-- A byte string that its words fill is the bytes of those words (R9, R72). -/
theorem flatMap_bytesLe32_wordsLe {b : List Byte} {n : Nat} (h : b.length = 4 * n) :
    (wordsLe b).flatMap bytesLe32 = b := by
  induction b using wordsLe.induct generalizing n with
  | case1 b0 b1 b2 b3 rest ih =>
    simp only [List.length_cons] at h
    rw [wordsLe, List.flatMap_cons, bytesLe32_le32, ih (n := n - 1) (by omega)]
    rfl
  | case2 b hshort =>
    rcases b with _ | ⟨b0, _ | ⟨b1, _ | ⟨b2, _ | ⟨b3, rest⟩⟩⟩⟩
    · rfl
    case cons.cons.cons.cons => exact absurd rfl (hshort b0 b1 b2 b3 rest)
    all_goals simp only [List.length_cons, List.length_nil] at h; omega

/-- A command payload in a frame is decoded to the fields it was built of (R72, R151). -/
theorem commandOf_commandBytes (frameKind : Byte) (length crc : Half) (kind flag rsvd count : Byte) (params : List Word)
    (hcount : params.length = count.toNat) (hmax : count.toNat ≤ maxParams) :
    commandOf ⟨frameKind, length, crc, commandBytes kind flag rsvd count params⟩ =
      .ok ⟨frameKind, length, crc, kind, flag, rsvd, count, params⟩ := by
  have hlen : (commandBytes kind flag rsvd count params).length = cmdHeaderLen + 4 * count.toNat := by
    rw [commandBytes_length, hcount]; rfl
  unfold commandOf
  rw [hlen]
  simp [commandBytes, hmax]

/-- What is decoded as a command is the command payload of its fields (R72, R151). -/
theorem commandBytes_of_commandOf {r : Frame} {c : Command} (h : commandOf r = .ok c) :
    r.payload = commandBytes c.kind c.flag c.rsvd c.count c.params := by
  obtain ⟨body, hpayload, -, hbody, hparams, -⟩ := commandOf_ok h
  rw [hpayload, commandBytes, hparams, flatMap_bytesLe32_wordsLe hbody]
  rfl

/-- The bytes of at most seven parameter words and their header fit a frame (R71, R72). -/
theorem commandBytes_length_le (kind flag rsvd count : Byte) {params : List Word} (h : params.length ≤ maxParams) :
    (commandBytes kind flag rsvd count params).length ≤ maxPayload := by
  rw [commandBytes_length]
  simp only [maxParams, maxPayload] at h ⊢
  omega

/-- A command in a payload frame of any kind is decoded to the fields it was built of (R72, R151). -/
theorem decodeCommand_commandBytes (frameKind kind flag rsvd count : Byte) {params : List Word}
    (hcount : params.length = count.toNat) (hmax : params.length ≤ maxParams) :
    ∃ length crc : Half, decodeCommand (payloadFrameBytes frameKind (commandBytes kind flag rsvd count params)) =
      .ok ⟨frameKind, length, crc, kind, flag, rsvd, count, params⟩ := by
  have hframe := decodeFrame_payloadFrameBytes frameKind (commandBytes_length_le kind flag rsvd count hmax)
  simp only [decodeCommand, hframe, commandOf_commandBytes _ _ _ _ _ _ _ _ hcount (hcount ▸ hmax)]
  exact ⟨_, _, rfl⟩

/-- A decoded command is what the frame of its fields carries (R72, R151). -/
theorem commandFrame_of_decodeCommand {b : List Byte} {c : Command} (h : decodeCommand b = .ok c) :
    b = payloadFrameBytes c.frameKind (commandBytes c.kind c.flag c.rsvd c.count c.params) := by
  obtain ⟨r, hr, hc⟩ := decodeCommand_ok h
  obtain ⟨-, -, -, -, -, hkind, -⟩ := commandOf_ok hc
  rw [hkind, ← commandBytes_of_commandOf hc]
  exact payloadFrameBytes_of_decodeFrame hr

/-- The count byte of at most seven parameters is their number (R72). -/
theorem toNat_ofNat_of_le_maxParams {n : Nat} (h : n ≤ maxParams) : (BitVec.ofNat 8 n).toNat = n := by
  rw [BitVec.toNat_ofNat, Nat.mod_eq_of_lt]
  exact Nat.lt_of_le_of_lt h (by decide)

/-- A decoded command's count byte is the number of its parameters (R151). -/
theorem count_of_decodeCommand {b : List Byte} {c : Command} (h : decodeCommand b = .ok c) :
    c.count = BitVec.ofNat 8 c.params.length := by
  obtain ⟨-, -, hparams⟩ := decodeCommand_ok_count h
  rw [hparams, BitVec.ofNat_toNat, BitVec.setWidth_eq]

/-! ## The decoder reads what the encoder writes (R70 to R76) -/

/-- The frame of a command is read back as a command frame with the fields it was built of (R72, R76). -/
theorem commandFrameOf_commandBytes (kind flag rsvd count : Byte) {params : List Word}
    (hcount : params.length = count.toNat) (hmax : params.length ≤ maxParams) :
    ∃ length crc : Half,
      commandFrameOf (payloadFrameBytes frameKindCommand (commandBytes kind flag rsvd count params)) =
        some ⟨frameKindCommand, length, crc, kind, flag, rsvd, count, params⟩ := by
  obtain ⟨length, crc, h⟩ := decodeCommand_commandBytes frameKindCommand kind flag rsvd count hcount hmax
  exact ⟨length, crc, by simp [commandFrameOf, h]⟩

/-- What is read as a command frame is the frame of its fields, with as many parameters as its count byte says. -/
theorem commandBytes_of_commandFrameOf {b : List Byte} {c : Command} (h : commandFrameOf b = some c) :
    b = payloadFrameBytes frameKindCommand
      (commandBytes c.kind c.flag c.rsvd (BitVec.ofNat 8 c.params.length) c.params) := by
  unfold commandFrameOf at h
  split at h
  · next hc =>
    split at h <;> cases h
    next hkind => rw [← hkind, ← count_of_decodeCommand hc, ← commandFrame_of_decodeCommand hc]
  · cases h

/-- A presented string decodes exactly where its form finds the fields in it. -/
theorem decodeWire_eq_ok_iff {form : WireForm} {b : List Byte} {instr : Instr} :
    decodeWire form b = .ok instr ↔ wireFields form b = some instr := by
  unfold decodeWire
  cases wireFields form b <;> simp

theorem wireFields_payloadFrameBytes (kind : Byte) {payload : List Byte} (h : payload.length ≤ maxPayload) :
    wireFields .payloadFrame (payloadFrameBytes kind payload) = some (.wirePayloadFrame kind payload) := by
  simp [wireFields, decodeFrame_payloadFrameBytes kind h]

theorem wireFields_commandFrameBytes (cmdKind : Byte) (hasData : Bool) {params : List Word}
    (h : params.length ≤ maxParams) :
    wireFields .commandFrame (commandFrameBytes cmdKind hasData params) =
      some (.wireCommandFrame cmdKind hasData params) := by
  obtain ⟨_, _, hc⟩ := commandFrameOf_commandBytes cmdKind (flagByte hasData) 0x00 (BitVec.ofNat 8 params.length)
    (toNat_ofNat_of_le_maxParams h).symm h
  simp only [wireFields, commandFrameBytes, commandPayload, hc]
  cases hasData <;> simp [flagByte]

theorem wireFields_genericResponseBytes (flag rsvd : Byte) (statusCode echoedKind : Word) :
    wireFields .genericResponse
        (genericResponseBytes Config.cce.cmdKindResponseGeneric flag rsvd statusCode echoedKind) =
      some (.wireGenericResponse flag rsvd statusCode echoedKind) := by
  obtain ⟨_, _, hc⟩ := commandFrameOf_commandBytes Config.cce.cmdKindResponseGeneric flag rsvd 2
    (params := [statusCode, echoedKind]) rfl (by simp [maxParams])
  simp only [wireFields, genericResponseBytes, hc]
  simp

theorem wireFields_pingResponseBytes (patch minor major byte5 byte6 byte7 : Byte) :
    wireFields .pingResponse (pingResponseBytes patch minor major byte5 byte6 byte7) =
      some (.wirePingResponse patch minor major byte5 byte6 byte7) :=
  if_pos rfl

/-- Settles O1: a request word's fields read back from the word, and each wire format's from its bytes. -/
theorem decodeOfEncode : Obligations.DecodeOfEncode := by
  intro instr hwf
  cases instr with
  | crcInit | crcFeed | crcRead | crc16 | decodeFrame | decodePingResponse | decodeCommand | decodeGenericResponse
  | decodeAck | reservedOpB | reservedOpC | reservedOpD | reservedOpE | reservedOpF => rfl
  | encodeFrame | encodeCommand => simp [decode, encode, decodeReq, operationOf]
  | wireBareFrame => rfl
  | wirePingRequest | wireAck | wireNak => simp [decode, encode, decodeWire, wireFields]
  | wirePayloadFrame kind payload =>
    exact decodeWire_eq_ok_iff.2 (wireFields_payloadFrameBytes kind (of_decide_eq_true hwf))
  | wireCommandFrame cmdKind hasData params =>
    exact decodeWire_eq_ok_iff.2 (wireFields_commandFrameBytes cmdKind hasData (of_decide_eq_true hwf))
  | wireGenericResponse => exact decodeWire_eq_ok_iff.2 (wireFields_genericResponseBytes ..)
  | wirePingResponse => exact decodeWire_eq_ok_iff.2 (wireFields_pingResponseBytes ..)

/-! ## The encoder writes what the decoder reads (R77) -/

/-- A command frame of the table has reserved byte 0 and one of the two flag bytes (R72). -/
theorem encode_of_commandFrame {b : List Byte} {instr : Instr} (h : wireFields .commandFrame b = some instr) :
    encode instr = .frame .commandFrame b := by
  simp only [wireFields] at h
  split at h
  · next c hc =>
    have hb := commandBytes_of_commandFrameOf hc
    split at h
    · cases h
    · next hrsvd =>
      rw [not_not.1 hrsvd] at hb
      split at h
      · next hflag => cases h; rw [hb, hflag]; rfl
      · split at h <;> cases h
        next hflag => rw [hb, hflag]; rfl
  · cases h

/-- A generic response has the configured kind and two parameters, whatever its flag and reserved bytes (R76, R78). -/
theorem encode_of_genericResponse {b : List Byte} {instr : Instr} (h : wireFields .genericResponse b = some instr) :
    encode instr = .frame .genericResponse b := by
  simp only [wireFields] at h
  split at h
  · next c hc =>
    have hb := commandBytes_of_commandFrameOf hc
    split at h
    · cases h
    · next hkind =>
      split at h <;> cases h
      next hparams => rw [hb, hparams, not_not.1 hkind]; rfl
  · cases h

/-- A byte string that is of a form is the encoding of what it decodes to. -/
theorem encode_of_wireFields {form : WireForm} {b : List Byte} {instr : Instr} (h : wireFields form b = some instr) :
    encode instr = .frame form b := by
  cases form with
  | bareFrame =>
    simp only [wireFields] at h
    split at h
    · split at h <;> cases h
      subst_vars
      rfl
    · cases h
  | pingRequest | ack | nak =>
    simp only [wireFields] at h
    split at h <;> cases h
    subst_vars
    rfl
  | payloadFrame =>
    simp only [wireFields] at h
    split at h <;> cases h
    next hr => rw [encode, ← payloadFrameBytes_of_decodeFrame hr]
  | commandFrame => exact encode_of_commandFrame h
  | genericResponse => exact encode_of_genericResponse h
  | pingResponse =>
    simp only [wireFields] at h
    split at h
    · split at h <;> cases h
      next hb => rw [encode, ← hb]
    · cases h

/-! ## The step of a wire format (log 5, log 11) -/

/-- Settles O7: the step of a wire format writes the bytes of its layout to IN. -/
theorem wireFramesBecomeInput : Obligations.WireFramesBecomeInput := by
  refine fun s => ⟨fun _ => rfl, rfl, rfl, rfl, ?_, ?_, fun _ _ _ _ => rfl, fun _ _ _ _ _ _ => rfl⟩
  · rintro kind payload _ _ rfl rfl
    rfl
  · rintro cmdKind hasData params _ rfl
    cases hasData <;> rfl

/-- The instruction of a wire format gives IN the bytes it encodes to (log 5). -/
theorem exec_of_encode_frame {form : WireForm} {b : List Byte} {instr : Instr} (h : encode instr = .frame form b)
    (s : State) : exec instr s = .next (s.writeIn b) := by
  cases instr with
  | wireBareFrame | wirePingRequest | wireAck | wireNak | wirePayloadFrame | wireCommandFrame
  | wireGenericResponse | wirePingResponse => cases h; rfl
  | _ => cases h

/-- Settles O15: a frame that decodes is the encoding of its instruction, so IN takes the presented bytes either
way. -/
theorem stepRunsThePresentedFrame : Obligations.StepRunsThePresentedFrame := by
  intro s rest form b htodo
  rw [step_of_todo_cons htodo]
  simp only [takeStep, presentFrame]
  cases hdec : decodeWire form b with
  | ok instr =>
    have hexec := exec_of_encode_frame (encode_of_wireFields (decodeWire_eq_ok_iff.1 hdec)) { s with todo := rest }
    refine ⟨fun i hi => by cases hi; rfl, nofun, fun t ht => ?_⟩
    cases hexec.symm.trans ht
    rfl
  | error e => exact ⟨nofun, fun _ _ => rfl, fun t ht => by cases ht; rfl⟩

/-! ## A ping response comes back (R73, R124) -/

theorem decodePingResponse_pingResponseBytes (o : PingOptionsOffset) (patch minor major byte5 byte6 byte7 : Byte) :
    decodePingResponse o (pingResponseBytes patch minor major byte5 byte6 byte7) =
      .ok { kind := frameKindPingResponse
            crc := crc16 [pingResponseBody patch minor major byte5 byte6 byte7]
            patch := patch, minor := minor, major := major, options := pingOptions o byte5 byte6 byte7 } := by
  simp [decodePingResponse, pingResponseBytes, pingResponseBody, bytesLe16, le16_bytes]

/-- DECODE_PING_RESPONSE on a ping response in IN leaves its fields (R124). -/
theorem exec_decodePingResponse_ok {s : State} {b : List Byte} {r : PingResponse} (hin : s.inBuf = some b)
    (hr : decodePingResponse Config.cce.pingOptionsOffset b = .ok r) :
    exec .decodePingResponse s = .next (s.complete (pingResults r)) := by
  simp [exec, execDecodePingResponse, withIn_some hin, hr]

/-- Settles O38: the block decodes the bytes the step left in IN to the fields they were built of. -/
theorem pingResponseRoundTrip : Obligations.PingResponseRoundTrip := by
  intro s patch minor major byte5 byte6 byte7
  have hdecoded := exec_decodePingResponse_ok (writeIn_inBuf s _)
    (decodePingResponse_pingResponseBytes _ patch minor major byte5 byte6 byte7)
  exact ⟨_, _, rfl, hdecoded, rfl, rfl, rfl, rfl, rfl, rfl⟩

end Sys2Proof.Machine
end

section
/-! SUPPORT. The request word (30_encoding.md R80 to R83): which words select which operation, and what an operation
does not read. -/

namespace Sys2Proof.Machine

/-! ## Fields and masks (R81) -/

/-- A field that lies inside a mask is the same in two words that agree under the mask. -/
theorem extractLsb'_eq_of_masked {w v m : Word} {start len : Nat} (h : w &&& m = v &&& m)
    (hm : m.extractLsb' start len = BitVec.allOnes len) : w.extractLsb' start len = v.extractLsb' start len := by
  have hfield := congrArg (BitVec.extractLsb' start len) h
  rwa [BitVec.extractLsb'_and, BitVec.extractLsb'_and, hm, BitVec.and_allOnes, BitVec.and_allOnes] at hfield

/-- A bit that a mask keeps is the same in two words that agree under the mask. -/
theorem getLsbD_eq_of_masked {w v m : Word} {i : Nat} (h : w &&& m = v &&& m) (hm : m.getLsbD i = true) :
    w.getLsbD i = v.getLsbD i := by
  have hbit := congrArg (BitVec.getLsbD · i) h
  simpa [hm] using hbit

/-- The mask of a row without operands keeps OP and the two reserved fields (R80, R81). -/
theorem and_rowMask (w : Word) :
    w &&& (0xFF0000CF : Word) =
      ((reqRsvd1 w).setWidth 32 <<< 24) ||| ((reqRsvd0 w).setWidth 32 <<< 6) ||| (reqOp w).setWidth 32 := by
  ext i hi
  interval_cases i <;> simp [reqRsvd1, reqRsvd0, reqOp]

/-- The mask of a reserved row keeps OP. -/
theorem and_opMask (w : Word) : w &&& 0x0000000F = (reqOp w).setWidth 32 := by
  ext i hi
  interval_cases i <;> simp [reqOp]

/-- The words under a row's mask are its code's exactly where the operation code is the row's and both reserved fields
are 0. -/
theorem and_rowMask_eq_iff {w : Word} {op : BitVec 4} :
    w &&& 0xFF0000CF = reqWord op false false 0 0 ↔ reqOp w = op ∧ reqRsvd0 w = 0 ∧ reqRsvd1 w = 0 := by
  have hrow : ∀ v : Word, reqOp v = op → reqRsvd0 v = 0 → reqRsvd1 v = 0 →
      v &&& 0xFF0000CF = reqWord op false false 0 0 := fun v hop h0 h1 => by
    rw [and_rowMask, hop, h0, h1]
    simp [reqWord]
  refine ⟨fun h => ?_, fun ⟨hop, h0, h1⟩ => hrow w hop h0 h1⟩
  have hmasked := h.trans (hrow _ (reqOp_reqWord op false false 0 0) (by simp) (by simp)).symm
  refine ⟨?_, ?_, ?_⟩
  · exact (extractLsb'_eq_of_masked hmasked rfl).trans (reqOp_reqWord ..)
  · exact (extractLsb'_eq_of_masked hmasked rfl).trans (reqRsvd0_reqWord ..)
  · exact (extractLsb'_eq_of_masked hmasked rfl).trans (reqRsvd1_reqWord ..)

theorem and_opMask_eq_iff {w : Word} {op : BitVec 4} :
    w &&& 0x0000000F = reqWord op false false 0 0 ↔ reqOp w = op := by
  have hrow : ∀ v : Word, reqOp v = op → v &&& 0x0000000F = reqWord op false false 0 0 := fun v hop => by
    rw [and_opMask, hop]
    simp [reqWord]
  refine ⟨fun h => ?_, hrow w⟩
  have hmasked := h.trans (hrow _ (reqOp_reqWord op false false 0 0)).symm
  exact (extractLsb'_eq_of_masked hmasked rfl).trans (reqOp_reqWord ..)

/-! ## The operation a word selects (R80, R82) -/

/-- What a word's code selects is the encoding of that code: the operations of different codes differ. -/
theorem encode_operationOf (w : Word) : ∃ v, encode (operationOf w) = .request v ∧ reqOp v = reqOp w := by
  obtain ⟨n, hn⟩ : ∃ n, (reqOp w).toNat = n := ⟨_, rfl⟩
  have hlt : n < 16 := hn ▸ (reqOp w).isLt
  simp only [operationOf, hn]
  interval_cases n
  all_goals exact ⟨_, rfl, (reqOp_reqWord ..).trans (BitVec.eq_of_toNat_eq hn.symm)⟩

/-- Two words select the same operation exactly where they agree on the code and on the fields its row lists. -/
theorem operationOf_eq_iff {w v : Word} : operationOf w = operationOf v ↔ reqOp w = reqOp v ∧
    (reqOp v = 0x4 → reqKind w = reqKind v ∧ reqHasPayload w = reqHasPayload v) ∧
    (reqOp v = 0x7 → reqKind w = reqKind v ∧ reqHasData w = reqHasData v ∧ reqPcount w = reqPcount v) := by
  constructor
  · intro h
    obtain ⟨x, hx, hxw⟩ := encode_operationOf w
    obtain ⟨y, hy, hyv⟩ := encode_operationOf v
    rw [h, hy] at hx
    cases hx
    have hop := hxw.symm.trans hyv
    refine ⟨hop, fun h4 => ?_, fun h7 => ?_⟩
    · simpa [operationOf, hop, h4] using h
    · simpa [operationOf, hop, h7] using h
  · rintro ⟨hop, h4, h7⟩
    unfold operationOf
    rw [hop]
    split
    case h_5 h => rw [(h4 (BitVec.eq_of_toNat_eq h)).1, (h4 (BitVec.eq_of_toNat_eq h)).2]
    case h_8 h =>
      obtain ⟨hkind, hdata, hcount⟩ := h7 (BitVec.eq_of_toNat_eq h)
      rw [hkind, hdata, hcount]
    all_goals rfl

/-- A word decodes to an operation where it selects it and is legal, or has a reserved code (R81, R83). -/
theorem decodeReq_eq_ok_iff {w : Word} {instr : Instr} : decodeReq w = .ok instr ↔
    operationOf w = instr ∧ (0xA < (reqOp w).toNat ∨ reqRsvd0 w = 0 ∧ reqRsvd1 w = 0) := by
  unfold decodeReq
  split_ifs with hreserved h0 h1
  · simp only [Except.ok.injEq, hreserved, true_or, and_true]
  · simp only [hreserved, h0, false_and, or_self, and_false]
  · simp only [hreserved, h1, and_false, or_self]
  · simp only [Except.ok.injEq, hreserved, not_not.1 h0, not_not.1 h1, and_self, or_true, and_true]

/-- Words that agree under a mask which keeps the code, the reserved fields and the fields of the code's row decode
alike (R82). -/
theorem decodeReq_eq_of_masked {w v m : Word} (h : w &&& m = v &&& m) (hop : m.extractLsb' 0 4 = BitVec.allOnes 4)
    (h0 : m.extractLsb' 6 2 = BitVec.allOnes 2) (h1 : m.extractLsb' 24 8 = BitVec.allOnes 8)
    (h4 : reqOp w = 0x4 → reqKind w = reqKind v ∧ reqHasPayload w = reqHasPayload v)
    (h7 : reqOp w = 0x7 → reqKind w = reqKind v ∧ reqHasData w = reqHasData v ∧ reqPcount w = reqPcount v) :
    decodeReq w = decodeReq v := by
  have hsame : reqOp w = reqOp v := extractLsb'_eq_of_masked h hop
  have hinstr : operationOf w = operationOf v := operationOf_eq_iff.2 ⟨hsame, hsame ▸ h4, hsame ▸ h7⟩
  have hrsvd0 : reqRsvd0 w = reqRsvd0 v := extractLsb'_eq_of_masked h h0
  have hrsvd1 : reqRsvd1 w = reqRsvd1 v := extractLsb'_eq_of_masked h h1
  rw [decodeReq, decodeReq, hsame, hrsvd0, hrsvd1, hinstr]

/-! ## The rows of the opcode table (R80) -/

/-- The row of an operation: a word decodes to it where its masked bits are the row's code and it has the operands of
the row's fields. -/
theorem decodeReq_legal_iff {w v : Word} (hlegal : (reqOp v).toNat ≤ 0xA) : decodeReq w = .ok (operationOf v) ↔
    w &&& 0xFF0000CF = reqWord (reqOp v) false false 0 0 ∧
    (reqOp v = 0x4 → reqKind w = reqKind v ∧ reqHasPayload w = reqHasPayload v) ∧
    (reqOp v = 0x7 → reqKind w = reqKind v ∧ reqHasData w = reqHasData v ∧ reqPcount w = reqPcount v) := by
  rw [decodeReq_eq_ok_iff, operationOf_eq_iff, and_rowMask_eq_iff]
  constructor
  · rintro ⟨⟨hop, hoperands⟩, hreserved | hfields⟩
    · rw [hop] at hreserved
      omega
    · exact ⟨⟨hop, hfields⟩, hoperands⟩
  · rintro ⟨⟨hop, hfields⟩, hoperands⟩
    exact ⟨⟨hop, hoperands⟩, .inr hfields⟩

/-- The row of an operation without operands. -/
theorem decodeReq_plain_iff {w : Word} {instr : Instr} (op : BitVec 4)
    (hrow : operationOf (reqWord op false false 0 0) = instr) (hlegal : op.toNat ≤ 0xA)
    (hplain : op ≠ 0x4 ∧ op ≠ 0x7) :
    decodeReq w = .ok instr ↔ w &&& 0xFF0000CF = reqWord op false false 0 0 := by
  rw [← hrow, decodeReq_legal_iff (by rwa [reqOp_reqWord]), reqOp_reqWord]
  exact and_iff_left ⟨fun h => absurd h hplain.1, fun h => absurd h hplain.2⟩

/-- The row of ENCODE_FRAME, with KIND and HAS_PAYLOAD. -/
theorem decodeReq_encodeFrame_iff {w : Word} {kind : Byte} {hasPayload : Bool} :
    decodeReq w = .ok (.encodeFrame kind hasPayload) ↔
      w &&& 0xFF0000CF = reqWord 0x4 false false 0 0 ∧ kind = reqKind w ∧ hasPayload = reqHasPayload w := by
  have hrow : operationOf (reqWord 0x4 hasPayload false kind 0) = .encodeFrame kind hasPayload := by
    simp [operationOf]
  rw [← hrow, decodeReq_legal_iff (by simp)]
  simp [eq_comm (a := kind), eq_comm (a := hasPayload)]

/-- The row of ENCODE_COMMAND, with KIND, HAS_DATA and PCOUNT. -/
theorem decodeReq_encodeCommand_iff {w : Word} {kind : Byte} {hasData : Bool} {pcount : Byte} :
    decodeReq w = .ok (.encodeCommand kind hasData pcount) ↔
      w &&& 0xFF0000CF = reqWord 0x7 false false 0 0 ∧ kind = reqKind w ∧ hasData = reqHasData w ∧
        pcount = reqPcount w := by
  have hrow : operationOf (reqWord 0x7 false hasData kind pcount) = .encodeCommand kind hasData pcount := by
    simp [operationOf]
  rw [← hrow, decodeReq_legal_iff (by simp)]
  simp [eq_comm (a := kind), eq_comm (a := hasData), eq_comm (a := pcount)]

/-- The row of a reserved code: the other bits do not matter (R83). -/
theorem decodeReq_reserved_iff {w : Word} {instr : Instr} (op : BitVec 4)
    (hrow : operationOf (reqWord op false false 0 0) = instr) (hreserved : 0xA < op.toNat) :
    decodeReq w = .ok instr ↔ w &&& 0x0000000F = reqWord op false false 0 0 := by
  rw [decodeReq_eq_ok_iff, ← hrow, operationOf_eq_iff, and_opMask_eq_iff, reqOp_reqWord]
  constructor
  · exact fun h => h.1.1
  · rintro rfl
    exact ⟨⟨rfl, fun h => by simp [h] at hreserved, fun h => by simp [h] at hreserved⟩, .inl hreserved⟩

/-- Settles O2: each row's mask keeps its code and the reserved fields, and words of different codes select different
operations. -/
theorem wordsMatchTheOpcodeTable : Obligations.WordsMatchTheOpcodeTable := fun _ =>
  ⟨decodeReq_plain_iff 0x0 rfl (by decide) (by decide), decodeReq_plain_iff 0x1 rfl (by decide) (by decide),
    decodeReq_plain_iff 0x2 rfl (by decide) (by decide), decodeReq_plain_iff 0x3 rfl (by decide) (by decide),
    fun _ _ => decodeReq_encodeFrame_iff, decodeReq_plain_iff 0x5 rfl (by decide) (by decide),
    decodeReq_plain_iff 0x6 rfl (by decide) (by decide), fun _ _ _ => decodeReq_encodeCommand_iff,
    decodeReq_plain_iff 0x8 rfl (by decide) (by decide), decodeReq_plain_iff 0x9 rfl (by decide) (by decide),
    decodeReq_plain_iff 0xA rfl (by decide) (by decide), decodeReq_reserved_iff 0xB rfl (by decide),
    decodeReq_reserved_iff 0xC rfl (by decide), decodeReq_reserved_iff 0xD rfl (by decide),
    decodeReq_reserved_iff 0xE rfl (by decide), decodeReq_reserved_iff 0xF rfl (by decide)⟩

/-- Settles O3: eight words and three frames of the spec, each evaluated. -/
theorem specWordsDecode : Obligations.SpecWordsDecode := by
  unfold Obligations.SpecWordsDecode
  decide +kernel

/-! ## Illegal words (R83) -/

/-- A reserved code selects an operation that raises ILLEGAL_OPERATION. -/
theorem exec_operationOf_reserved {w : Word} (h : 0xA < (reqOp w).toNat) (s : State) :
    exec (operationOf w) s = illegalOperation s := by
  obtain ⟨n, hn⟩ : ∃ n, (reqOp w).toNat = n := ⟨_, rfl⟩
  have hlt : n < 16 := hn ▸ (reqOp w).isLt
  rw [hn] at h
  simp only [operationOf, hn]
  interval_cases n <;> rfl

/-- Settles O5: a reserved code runs its row, any other illegal word is refused by the decoder, and both raise
ILLEGAL_OPERATION. -/
theorem illegalWordsRaise : Obligations.IllegalWordsRaise := by
  intro s rest w htodo hreq hillegal
  by_cases hop : (reqOp w).toNat ≤ 0xA
  · have hfields : reqRsvd0 w ≠ 0 ∨ reqRsvd1 w ≠ 0 := hillegal.resolve_left (Nat.not_le.2 (Nat.lt_succ_of_le hop))
    exact illegalOnReservedBits_of_le hop s rest w htodo hreq rfl hfields
  · have hdec : decodeReq w = .ok (operationOf w) := decodeReq_eq_ok_iff.2 ⟨rfl, .inl (Nat.not_le.1 hop)⟩
    rw [step_of_todo_cons htodo]
    simp only [takeStep, start, hreq, hdec]
    exact exec_operationOf_reserved (Nat.not_le.1 hop) _

/-- Settles O6: each reserved row ends in the one shared operation that raises ILLEGAL_OPERATION. -/
theorem reservedOpsComplete : Obligations.ReservedOpsComplete :=
  fun _ => ⟨rfl, rfl, rfl, rfl, rfl⟩

/-! ## What an operation does not read (R82)

A change of the input registers that an operation does not see is carried through: by each shared operation, and so by
every operation built of them. -/

/-- The state with another content of IN. -/
def State.setIn (other : Option (List Byte)) (s : State) : State := { s with inBuf := other }

/-- The state with another parameter file. -/
def State.setParam (other : Vector (Option Word) 7) (s : State) : State := { s with param := other }

theorem conclude_setIn {α : Type} (s : State) (other : Option (List Byte)) (v : Except StatusCode α)
    (w : α → Results) : (s.setIn other).conclude v w = (s.conclude v w).setIn other := by
  cases v <;> rfl

theorem conclude_setParam {α : Type} (s : State) (other : Vector (Option Word) 7) (v : Except StatusCode α)
    (w : α → Results) : (s.setParam other).conclude v w = (s.conclude v w).setParam other := by
  cases v <;> rfl

section
variable {change : State → State} {s : State}

/-- An operation that reads IN carries a change through that keeps IN. -/
theorem withIn_onNext {run run' : List Byte → Answer} (hin : (change s).inBuf = s.inBuf)
    (hrun : ∀ b, run' b = onNext change (run b)) : withIn (change s) run' = onNext change (withIn s run) := by
  simp only [withIn, hin]
  split
  · exact hrun _
  · rfl

theorem inRead_onNext {index : Nat} {run run' : Byte → Answer} (hin : (change s).inBuf = s.inBuf)
    (hrun : ∀ v, run' v = onNext change (run v)) :
    inRead (change s) index run' = onNext change (inRead s index run) := by
  refine withIn_onNext hin fun b => ?_
  split
  · exact hrun _
  · rfl

/-- An operation that reads PARAM carries a change through that keeps the registers it reads. -/
theorem withParams_onNext {n : Nat} {run run' : List Word → Answer}
    (hprefix : writtenPrefix (change s).param.toList 0 n = writtenPrefix s.param.toList 0 n)
    (hrun : ∀ vs, run' vs = onNext change (run vs)) :
    withParams (change s) n run' = onNext change (withParams s n run) := by
  simp only [withParams, hprefix]
  split
  · exact hrun _
  · rfl

end

/-- An operation that does not read IN answers the same whatever IN holds. -/
theorem exec_setIn {instr : Instr} (s : State) (other : Option (List Byte)) (hop : instr.isOperation = true)
    (hreads : readsIn instr = false) :
    exec instr (s.setIn other) = onNext (State.setIn other) (exec instr s) := by
  cases instr with
  | crcInit | crcRead | reservedOpB | reservedOpC | reservedOpD | reservedOpE | reservedOpF => rfl
  | encodeFrame kind hasPayload => obtain rfl : hasPayload = false := hreads; rfl
  | encodeCommand kind hasData pcount =>
    simp only [exec, execEncodeCommand]
    split
    · rfl
    · exact withParams_onNext rfl fun vs => congrArg _ (conclude_setIn s other _ _)
  | crcFeed | crc16 | decodeFrame | decodePingResponse | decodeCommand | decodeGenericResponse | decodeAck =>
    cases hreads
  | wireBareFrame | wirePingRequest | wireAck | wireNak | wirePayloadFrame | wireCommandFrame
  | wireGenericResponse | wirePingResponse => cases hop

/-- Parameter files that agree on their first entries have the same values there. -/
theorem writtenPrefix_congr {ps qs : List (Option Word)} {n : Nat} (k : Nat) (h : ps.take n = qs.take n) :
    writtenPrefix ps k n = writtenPrefix qs k n := by
  induction n generalizing ps qs k with
  | zero => simp only [writtenPrefix]
  | succ n ih =>
    match ps, qs, h with
    | [], [], _ => rfl
    | p :: ps, q :: qs, h =>
      obtain ⟨rfl, htail⟩ := List.cons.inj h
      cases p with
      | none => rfl
      | some v => simp only [writtenPrefix, ih (k + 1) htail]

theorem writtenPrefix_congr_param {ps qs : Vector (Option Word) 7} {n : Nat}
    (h : ∀ k : Fin 7, k.val < n → ps[k] = qs[k]) : writtenPrefix ps.toList 0 n = writtenPrefix qs.toList 0 n := by
  refine writtenPrefix_congr 0 (List.ext_getElem (by simp) fun i hi _ => ?_)
  simp only [List.length_take, Vector.length_toList, lt_inf_iff] at hi
  simpa using h ⟨i, hi.2⟩ hi.1

/-- An operation answers the same whatever the PARAM registers hold that it does not read. -/
theorem exec_setParam {instr : Instr} (s : State) (other : Vector (Option Word) 7) (hop : instr.isOperation = true)
    (hreads : ∀ k : Fin 7, k.val < readsParam instr → other[k] = s.param[k]) :
    exec instr (s.setParam other) = onNext (State.setParam other) (exec instr s) := by
  have hconclude : ∀ {α : Type} (v : Except StatusCode α) (w : α → Results),
      Host.Outcome.next ((s.setParam other).conclude v w) = onNext (State.setParam other) (.next (s.conclude v w)) :=
    fun v w => congrArg _ (conclude_setParam s other v w)
  cases instr with
  | crcInit | crcRead | reservedOpB | reservedOpC | reservedOpD | reservedOpE | reservedOpF => rfl
  | crcFeed | crc16 => exact withIn_onNext rfl fun _ => rfl
  | decodeFrame | decodePingResponse | decodeCommand | decodeGenericResponse =>
    exact withIn_onNext rfl fun _ => hconclude _ _
  | encodeFrame kind hasPayload =>
    cases hasPayload with
    | false => rfl
    | true => exact withIn_onNext rfl fun _ => hconclude _ _
  | decodeAck =>
    refine withIn_onNext rfl fun b => ?_
    split
    · exact inRead_onNext rfl fun m => inRead_onNext rfl fun k => rfl
    · rfl
  | encodeCommand kind hasData pcount =>
    simp only [exec, execEncodeCommand]
    split
    · rfl
    · next hcount =>
      have hcount7 : pcount.toNat ≤ 7 := Nat.not_lt.1 hcount
      simp only [readsParam, if_pos hcount7] at hreads
      exact withParams_onNext (writtenPrefix_congr_param hreads) fun vs => hconclude _ _
  | wireBareFrame | wirePingRequest | wireAck | wireNak | wirePayloadFrame | wireCommandFrame
  | wireGenericResponse | wirePingResponse => cases hop

/-- Settles O4: a row's mask keeps the fields the row lists and the reserved ones; the shared operations carry a change
of what is not read through. -/
theorem operationsReadOnlyTheirFields : Obligations.OperationsReadOnlyTheirFields := by
  refine ⟨fun w v h4 h7 h => ?_, fun w v h4 h => ?_, fun w v h7 h => ?_, fun _ => exec_setIn, fun _ => exec_setParam⟩
  · exact decodeReq_eq_of_masked h rfl rfl rfl (absurd · h4) (absurd · h7)
  · refine decodeReq_eq_of_masked h rfl rfl rfl (fun _ => ⟨?_, ?_⟩) fun h7 => absurd (h4.symm.trans h7) (by decide)
    · exact extractLsb'_eq_of_masked h rfl
    · exact getLsbD_eq_of_masked h rfl
  · refine decodeReq_eq_of_masked h rfl rfl rfl (fun h4 => absurd (h7.symm.trans h4) (by decide)) fun _ => ⟨?_, ?_, ?_⟩
    · exact extractLsb'_eq_of_masked h rfl
    · exact getLsbD_eq_of_masked h rfl
    · exact extractLsb'_eq_of_masked h rfl

end Sys2Proof.Machine
end

section
/-! SUPPORT. Caller programs (30_encoding.md R86, R87): what a pseudo-operation expands into, and the run of
CRC16_SPANS. -/

namespace Sys2Proof.Machine

/-! ## What a line expands into (R87) -/

/-- The request word of ENCODE_FRAME without a payload (R87). -/
theorem reqWord_encodeFrame_bare (kind : Byte) :
    reqWord 0x4 false false kind 0 = kind.setWidth 32 <<< 8 ||| 0x4 := by
  simp [reqWord]

theorem feedSpans_eq_flatMap (spans : List (List Byte)) : feedSpans spans =
    spans.flatMap fun b => [.write 1 (.bytes b), .write 0 (.u32 0x00000001), .start] := by
  induction spans with
  | nil => rfl
  | cons b rest ih =>
    rw [feedSpans, List.flatMap_cons, ih]
    rfl

/-- Settles O8: the request words field by field, the feeds by induction on the spans. -/
theorem pseudoOperationsExpand : Obligations.PseudoOperationsExpand := by
  refine ⟨rfl, ?_, ?_, fun spans => ?_, fun _ => rfl⟩
  · rw [← reqWord_encodeFrame_bare]; rfl
  · rw [← reqWord_encodeFrame_bare]; rfl
  · rw [assemble, feedSpans_eq_flatMap]; rfl

/-! ## Runs of the caller's steps -/

/-- A run of `m + n` steps is a run of `m` steps and a run of `n` steps from where it ends. -/
theorem run_add {m : Nat} {s t : State} (n : Nat) (h : Host.Core.run Sys2Proof.core m s = .next t) :
    Host.Core.run Sys2Proof.core (m + n) s = Host.Core.run Sys2Proof.core n t := by
  induction m generalizing s with
  | zero => cases h; rw [Nat.zero_add]
  | succ m ih =>
    rw [Nat.add_right_comm]
    simp only [Host.Core.run] at h ⊢
    split at h
    · exact ih h
    · cases h
    · cases h

/-- The first step of a run. -/
theorem run_step {c : CallerStep} {rest : List CallerStep} {s t : State} (n : Nat) (htodo : s.todo = c :: rest)
    (h : takeStep c { s with todo := rest } = .next t) :
    Host.Core.run Sys2Proof.core (n + 1) s = Host.Core.run Sys2Proof.core n t := by
  have hs : Sys2Proof.core.step s = .next t := (step_of_todo_cons htodo).trans h
  simp only [Host.Core.run, hs]

/-- The two steps that issue an operation put its word in REQ and run it (R23, R234). -/
theorem run_issue {instr : Instr} {w : Word} {rest : List CallerStep} {s t : State}
    (henc : encode instr = .request w) (hdec : decodeReq w = .ok instr) (htodo : s.todo = issue instr ++ rest)
    (h : exec instr { s with req := some w, todo := rest } = .next t) :
    Host.Core.run Sys2Proof.core (issue instr).length s = .next t := by
  simp only [issue, henc, List.cons_append, List.nil_append] at htodo ⊢
  have hstart : takeStep .start { s with req := some w, todo := rest } = .next t := by
    simpa only [takeStep, start, hdec] using h
  exact (run_step 1 htodo rfl).trans (run_step 0 rfl hstart)

/-- Writing a span to IN and issuing CRC_FEED folds it into CRC_ACC (R104). -/
theorem run_feedSpan {b : List Byte} {rest : List CallerStep} {s : State}
    (htodo : s.todo = writeInput (some b) ++ issue .crcFeed ++ rest) :
    ∃ t, Host.Core.run Sys2Proof.core (writeInput (some b) ++ issue .crcFeed).length s = .next t ∧ t.todo = rest ∧
      t.crcAcc = crcFold s.crcAcc b :=
  ⟨_, (run_step _ htodo rfl).trans (run_issue (instr := .crcFeed) rfl rfl rfl rfl), rfl, rfl⟩

/-- Feeding a list of spans folds them into CRC_ACC in order (R102, R104). -/
theorem run_feedSpans (spans : List (List Byte)) {rest : List CallerStep} {s : State}
    (htodo : s.todo = feedSpans spans ++ rest) :
    ∃ t, Host.Core.run Sys2Proof.core (feedSpans spans).length s = .next t ∧ t.todo = rest ∧
      t.crcAcc = spans.foldl crcFold s.crcAcc := by
  induction spans generalizing s with
  | nil => exact ⟨s, rfl, htodo, rfl⟩
  | cons b spans ih =>
    rw [feedSpans, List.append_assoc] at htodo
    obtain ⟨t, hfeed, htodo', hacc⟩ := run_feedSpan htodo
    obtain ⟨u, hrun, hrest, haccs⟩ := ih htodo'
    refine ⟨u, ?_, hrest, by rw [haccs, hacc]; rfl⟩
    rw [feedSpans, List.length_append, run_add _ hfeed, hrun]

/-- Settles O28: CRC_INIT sets the seed, the feeds fold the spans into it, CRC_READ reads the result out. -/
theorem streamedSpansGiveTheirCrc : Obligations.StreamedSpansGiveTheirCrc := by
  intro s spans htodo
  rw [assemble, List.append_assoc] at htodo ⊢
  obtain ⟨t, hinit, htodo', hseed⟩ : ∃ t, Host.Core.run Sys2Proof.core (issue .crcInit).length s = .next t ∧
      t.todo = feedSpans spans ++ issue .crcRead ∧ t.crcAcc = crcSeed :=
    ⟨_, run_issue (instr := .crcInit) rfl rfl htodo rfl, rfl, rfl⟩
  obtain ⟨u, hfeeds, hread, hacc⟩ := run_feedSpans spans htodo'
  rw [hseed] at hacc
  rw [List.length_append, run_add _ hinit, List.length_append, run_add _ hfeeds]
  refine ⟨_, run_issue (instr := .crcRead) (rest := []) rfl rfl hread rfl, rfl, hacc, ?_⟩
  simp only [complete_res, hacc]
  rfl

end Sys2Proof.Machine
end

section
/-! SUPPORT. The CRC engine (40_crc.md R100 to R110): a step is linear over XOR and loses nothing, so a fold keeps
apart what was apart; its four operations; what the codec operations do to its accumulator. -/

namespace Sys2Proof.Machine

/-! ## A step and a byte are linear over XOR (R108) -/

/-- `crc_step` with its condition in the mask: the shift, and the polynomial or nothing. -/
theorem crcStep_eq_xor (acc : Half) : crcStep acc = (acc <<< 1) ^^^ if acc.msb then crcPoly else 0 := by
  cases h : acc.msb <;> simp [crcStep, h]

theorem crcStep_xor (acc acc' : Half) : crcStep (acc ^^^ acc') = crcStep acc ^^^ crcStep acc' := by
  have hmask : (if acc.msb ^^ acc'.msb then crcPoly else 0) =
      (if acc.msb then crcPoly else 0) ^^^ if acc'.msb then crcPoly else 0 := by
    cases acc.msb <;> cases acc'.msb <;> rfl
  simp only [crcStep_eq_xor, BitVec.msb_xor, BitVec.shiftLeft_xor_distrib, hmask]
  ac_rfl

theorem repeat_crcStep_xor (n : Nat) (acc acc' : Half) :
    Nat.repeat crcStep n (acc ^^^ acc') = Nat.repeat crcStep n acc ^^^ Nat.repeat crcStep n acc' := by
  induction n with
  | zero => rfl
  | succ n ih => simp only [Nat.repeat, ih, crcStep_xor]

theorem crcByte_xor (acc acc' : Half) (v v' : Byte) :
    crcByte (acc ^^^ acc') (v ^^^ v') = crcByte acc v ^^^ crcByte acc' v' := by
  simp only [crcByte, ← repeat_crcStep_xor, BitVec.setWidth_xor, BitVec.shiftLeft_xor_distrib]
  ac_rfl

/-! ## A step, a byte and a fold lose nothing (R108)

The polynomial is odd, so the lowest bit after a step is the bit that was shifted out. -/

theorem crcStep_getLsbD_zero (acc : Half) : (crcStep acc).getLsbD 0 = acc.msb := by
  cases h : acc.msb <;> simp [crcStep, h, crcPoly]

theorem crcStep_injective : Function.Injective crcStep := by
  intro acc acc' h
  have hmsb : acc.msb = acc'.msb := by rw [← crcStep_getLsbD_zero, h, crcStep_getLsbD_zero]
  have hshift : acc <<< 1 = acc' <<< 1 := by
    rw [crcStep_eq_xor, crcStep_eq_xor, hmsb] at h
    exact (BitVec.xor_left_inj _).1 h
  rw [BitVec.msb_eq_decide, BitVec.msb_eq_decide, decide_eq_decide] at hmsb
  bv_omega

theorem repeat_crcStep_injective (n : Nat) : Function.Injective (Nat.repeat crcStep n) := by
  induction n with
  | zero => exact Function.injective_id
  | succ n ih => exact crcStep_injective.comp ih

/-- A byte step keeps different accumulators apart. -/
theorem crcByte_left_injective (v : Byte) : Function.Injective (crcByte · v) :=
  fun _ _ h => (BitVec.xor_left_inj _).1 (repeat_crcStep_injective 8 h)

/-- A byte step keeps different bytes apart. -/
theorem crcByte_right_injective (acc : Half) : Function.Injective (crcByte acc) := by
  intro v v' h
  have hhigh : v.setWidth 16 <<< 8 = v'.setWidth 16 <<< 8 :=
    (BitVec.xor_right_inj _).1 (repeat_crcStep_injective 8 h)
  bv_omega

theorem crcFold_left_injective (b : List Byte) : Function.Injective (crcFold · b) := by
  induction b with
  | nil => exact Function.injective_id
  | cons v b ih => exact ih.comp (crcByte_left_injective v)

/-! ## Spans, leading zeros and single bits (R108) -/

/-- Spans fold as their concatenation. -/
theorem crc16_flatten (spans : List (List Byte)) : crc16 spans = crc16 [spans.flatten] :=
  List.foldl_flatten.symm

/-- Zero bytes leave the seed. -/
theorem crcFold_zeros (n : Nat) : crcFold crcSeed (List.replicate n 0x00) = crcSeed := by
  have hzero : crcByte crcSeed 0x00 = crcSeed := by decide
  induction n with
  | zero => rfl
  | succ n ih => rw [List.replicate_succ, crcFold_cons, hzero, ih]

theorem xor_bit_ne (v : Byte) {bit : Nat} (hbit : bit < 8) : v ^^^ (1#8 <<< bit) ≠ v := by
  intro h
  have hget := congrArg (·.getLsbD bit) h
  simp [hbit] at hget

/-- The byte at a changed place stands between what comes before and after it. -/
theorem flipBit_eq {b : List Byte} {index : Nat} (h : index < b.length) (bit : Nat) :
    flipBit b index bit = b.take index ++ (b[index] ^^^ (1#8 <<< bit)) :: b.drop (index + 1) :=
  List.modify_eq_take_cons_drop h

/-- A single changed bit changes the fold from every accumulator: the byte step tells the bytes apart, and the rest of
the string keeps the difference. -/
theorem crcFold_flipBit_ne (acc : Half) {b : List Byte} {index bit : Nat} (hindex : index < b.length)
    (hbit : bit < 8) : crcFold acc (flipBit b index bit) ≠ crcFold acc b := by
  intro h
  have hsplit : crcFold acc b = crcFold (crcFold acc (b.take index)) (b[index] :: b.drop (index + 1)) := by
    rw [← crcFold_append]; simp
  rw [flipBit_eq hindex, hsplit, crcFold_append, crcFold_cons, crcFold_cons] at h
  exact xor_bit_ne _ hbit (crcByte_right_injective _ (crcFold_left_injective _ h))

/-! ## A codec operation and CRC_ACC (R107) -/

/-- The state with another value of CRC_ACC. -/
def State.setCrcAcc (acc : Half) (s : State) : State := { s with crcAcc := acc }

theorem conclude_setCrcAcc {α : Type} (s : State) (acc : Half) (v : Except StatusCode α) (w : α → Results) :
    (s.setCrcAcc acc).conclude v w = (s.conclude v w).setCrcAcc acc := by
  cases v <;> rfl

/-- An operation that is none of the CRC engine's answers the same whatever CRC_ACC holds. -/
theorem exec_setCrcAcc {instr : Instr} (s : State) (acc : Half) (hop : instr.isOperation = true)
    (hcrc : instr.isCrcOperation = false) :
    exec instr (s.setCrcAcc acc) = onNext (State.setCrcAcc acc) (exec instr s) := by
  have hconclude : ∀ {α : Type} (v : Except StatusCode α) (w : α → Results),
      Host.Outcome.next ((s.setCrcAcc acc).conclude v w) = onNext (State.setCrcAcc acc) (.next (s.conclude v w)) :=
    fun v w => congrArg _ (conclude_setCrcAcc s acc v w)
  cases instr with
  | reservedOpB | reservedOpC | reservedOpD | reservedOpE | reservedOpF => rfl
  | decodeFrame | decodePingResponse | decodeCommand | decodeGenericResponse =>
    exact withIn_onNext rfl fun _ => hconclude _ _
  | encodeFrame kind hasPayload =>
    cases hasPayload with
    | false => exact hconclude _ _
    | true => exact withIn_onNext rfl fun _ => hconclude _ _
  | decodeAck =>
    refine withIn_onNext rfl fun b => ?_
    split
    · exact inRead_onNext rfl fun m => inRead_onNext rfl fun k => rfl
    · rfl
  | encodeCommand kind hasData pcount =>
    simp only [exec, execEncodeCommand]
    split
    · rfl
    · exact withParams_onNext rfl fun _ => hconclude _ _
  | crcInit | crcFeed | crcRead | crc16 => cases hcrc
  | wireBareFrame | wirePingRequest | wireAck | wireNak | wirePayloadFrame | wireCommandFrame
  | wireGenericResponse | wirePingResponse => cases hop

/-! ## The engine's operations (R103 to R106) -/

/-- CRC_FEED with IN written (R104). -/
theorem exec_crcFeed {s : State} {b : List Byte} (hin : s.inBuf = some b) :
    exec .crcFeed s = .next { s with crcAcc := crcFold s.crcAcc b, res := onlyStatus 0x00 } :=
  withIn_some hin _

/-- CRC_FEED of a string that does not move the accumulator (R104). -/
theorem exec_crcFeed_of_fold_eq {s : State} {b : List Byte} (hin : s.inBuf = some b)
    (hfold : crcFold s.crcAcc b = s.crcAcc) : exec .crcFeed s = .next { s with res := onlyStatus 0x00 } := by
  rw [exec_crcFeed hin, hfold]

/-- CRC16 with IN written (R106). -/
theorem exec_crc16 {s : State} {b : List Byte} (hin : s.inBuf = some b) : exec .crc16 s =
    .next { s with crcAcc := crc16 [b], res := { onlyStatus 0x00 with rCrc := some (crc16 [b]) } } :=
  withIn_some hin _

/-! ## The obligations of 40_crc.md -/

/-- Settles O24: CRC_INIT reads nothing, so its answer is one record update. -/
theorem crcInitRuns : Obligations.CrcInitRuns :=
  ⟨rfl, illegalOnReservedBits_of_le (by decide), fun _ => rfl⟩

/-- Settles O25: the answer is the fold, which an empty string and zeros from the seed leave; the byte 0x01 moves it
to 0x1021, and moves it on from there. -/
theorem crcFeedRuns : Obligations.CrcFeedRuns := by
  refine ⟨rfl, illegalOnReservedBits_of_le (by decide), fun _ _ => exec_crcFeed,
    fun _ hin => exec_crcFeed_of_fold_eq hin rfl, fun _ => exec_of_in_unwritten rfl, fun s n hin hseed => ?_, ?_⟩
  · exact exec_crcFeed_of_fold_eq hin (by rw [hseed]; exact crcFold_zeros n)
  · have hfirst : crcByte 0x0000 0x01 = 0x1021 := by decide
    refine ⟨{ State.reset with inBuf := some [0x01] }, _, rfl, rfl, rfl, hfirst, fun h => ?_⟩
    rw [exec_crcFeed rfl] at h
    injection h with hstate
    have hacc : crcByte (crcByte 0x0000 0x01) 0x01 = crcByte 0x0000 0x01 := congrArg State.crcAcc hstate
    exact absurd hacc (by decide)

/-- Settles O26: CRC_READ reads no input, so its answer is one record update. -/
theorem crcReadRuns : Obligations.CrcReadRuns :=
  ⟨rfl, illegalOnReservedBits_of_le (by decide), fun _ => rfl⟩

/-- Settles O27: CRC_INIT sets the seed that CRC16 folds from, CRC_FEED folds the same IN, and CRC_READ copies the
accumulator. -/
theorem crc16Runs : Obligations.Crc16Runs := by
  refine ⟨rfl, illegalOnReservedBits_of_le (by decide), fun s b hin => ⟨exec_crc16 hin, ?_⟩⟩
  refine ⟨_, _, rfl, exec_crcFeed hin, ?_⟩
  rw [exec_crc16 hin]
  rfl

/-- Settles O31: closed values of the step and the byte, each evaluated. -/
theorem crcByteTraces : Obligations.CrcByteTraces := by
  unfold Obligations.CrcByteTraces
  decide

/-- Settles O32: the check value of the digits as one span is evaluated, as two it is that of their concatenation. -/
theorem crcCheckValues : Obligations.CrcCheckValues := by
  have hcheck : crc16 [[0x31, 0x32, 0x33, 0x34, 0x35, 0x36, 0x37, 0x38, 0x39]] = 0x31C3 := by decide +kernel
  refine ⟨hcheck, ?_, by decide +kernel, rfl, rfl⟩
  rw [crc16_flatten]
  exact hcheck

/-- Settles O29: both ends of an operation keep CRC_ACC unless its row lists it, and another CRC_ACC is carried
through. -/
theorem codecOperationsKeepTheStream : Obligations.CodecOperationsKeepTheStream := by
  intro instr s t acc hop hcrc h
  refine ⟨(exec_ends hop h).crcAcc (crcAcc_not_written hcrc), ?_⟩
  exact (exec_setCrcAcc s acc hop hcrc).trans (by rw [h]; rfl)

/-- Settles O30: one accumulator runs across the spans, zeros leave its seed, a byte step is linear, and a fold keeps
the difference that one bit makes. -/
theorem crcLaws : Obligations.CrcLaws := by
  refine ⟨crc16_flatten, fun n b => ?_, crcByte_xor, fun _ _ _ => crcFold_flipBit_ne crcSeed⟩
  rw [crc16_single, crc16_single, crcFold_append, crcFold_zeros]

end Sys2Proof.Machine
end

section
/-! SUPPORT. The Frame Codec (41_frame.md R120 to R124): when its decoders accept, what its operations answer, and why
one changed bit of a frame is always seen. -/

namespace Sys2Proof.Machine

/-! ## When the decoders accept (R121, R124) -/

/-- The decoder accepts exactly the frames of R121, with their fields. -/
theorem decodeFrame_eq_ok_iff {b : List Byte} {r : Frame} :
    decodeFrame b = .ok r ↔ isFrame b r.kind r.length r.crc r.payload := by
  constructor
  · intro h
    obtain ⟨l0, l1, c0, c1, hb, hlength, hcrc, hpayload, hcheck⟩ := decodeFrame_ok h
    refine ⟨l0, l1, c0, c1, hb, hlength, hcrc, ?_, hcheck.trans hcrc.symm⟩
    rw [hb, hpayload]
    simp only [List.length_cons]
    omega
  · obtain ⟨kind, length, crc, payload⟩ := r
    rintro ⟨l0, l1, c0, c1, rfl, rfl, rfl, hlen, hcheck⟩
    simp only [List.cons_append, List.nil_append] at hlen ⊢
    simpa [decodeFrame, frameMarker, frameHeaderLen, hlen] using hcheck

/-- What `decodePingResponse` accepts, and what it returns (R124). -/
theorem decodePingResponse_ok {o : PingOptionsOffset} {b : List Byte} {r : PingResponse}
    (h : decodePingResponse o b = .ok r) : ∃ byte5 byte6 byte7 c0 c1,
      b = pingResponseBody r.patch r.minor r.major byte5 byte6 byte7 ++ [c0, c1] ∧
      crc16 [pingResponseBody r.patch r.minor r.major byte5 byte6 byte7] = le16 c0 c1 := by
  unfold decodePingResponse at h
  split at h
  · split_ifs at h with hm hk hcrc
    cases h
    rw [not_not] at hm hk hcrc
    subst hm hk
    exact ⟨_, _, _, _, _, rfl, hcrc⟩
  · cases h

/-- The two CRC bytes of a ping response that the decoder accepts are those of the CRC (R73). -/
theorem pingResponseBytes_of_crc {patch minor major byte5 byte6 byte7 c0 c1 : Byte}
    (hcrc : crc16 [pingResponseBody patch minor major byte5 byte6 byte7] = le16 c0 c1) :
    pingResponseBody patch minor major byte5 byte6 byte7 ++ [c0, c1] =
      pingResponseBytes patch minor major byte5 byte6 byte7 := by
  rw [pingResponseBytes, hcrc, bytesLe16_le16]

/-- The two bytes of a bare frame are no complete header (R121, R122). -/
theorem decodeFrame_bareFrameBytes (kind : Byte) : decodeFrame (bareFrameBytes kind) = .error .malformedFrame := rfl

theorem pingOptions_eq_ite (o : PingOptionsOffset) (byte5 byte6 byte7 : Byte) :
    pingOptions o byte5 byte6 byte7 = if o = .five then le16 byte5 byte6 else le16 byte6 byte7 := by
  cases o <;> rfl

/-! ## What the operations answer (R120, R121, R124) -/

/-- ENCODE_FRAME of a payload that the length field can say (R120). -/
theorem exec_encodeFrame_payload {s : State} {p : List Byte} (kind : Byte) (hin : s.inBuf = some p)
    (hlen : p.length ≤ maxPayload) :
    exec (.encodeFrame kind true) s = .next (s.complete (outWrite (payloadFrameBytes kind p))) := by
  simp [exec, execEncodeFrame, withIn_some hin, encodeFrame, Nat.not_lt.2 hlen]

/-- ENCODE_FRAME of a payload that is too long for the length field (R120). -/
theorem exec_encodeFrame_tooLong {s : State} {p : List Byte} (kind : Byte) (hin : s.inBuf = some p)
    (hlen : maxPayload < p.length) : exec (.encodeFrame kind true) s = .next (s.raise .payloadTooLong) := by
  simp [exec, execEncodeFrame, withIn_some hin, encodeFrame, hlen]

/-- A frame that ENCODE_FRAME produced with a payload is the payload frame of what IN held (R120). -/
theorem exec_encodeFrame_out {s t : State} {kind : Byte} {f : List Byte}
    (h : exec (.encodeFrame kind true) s = .next t) (hout : t.res.out = some f) :
    ∃ p, p.length ≤ maxPayload ∧ f = payloadFrameBytes kind p := by
  obtain ⟨p, hin, -⟩ := withIn_next h
  rcases Nat.lt_or_ge maxPayload p.length with hlong | hlen
  · cases (exec_encodeFrame_tooLong kind hin hlong).symm.trans h
    cases hout
  · cases (exec_encodeFrame_payload kind hin hlen).symm.trans h
    cases hout
    exact ⟨p, hlen, rfl⟩

/-- DECODE_FRAME of a string that the decoder accepts (R121). -/
theorem exec_decodeFrame_ok {s : State} {b : List Byte} {r : Frame} (hin : s.inBuf = some b)
    (hr : decodeFrame b = .ok r) : exec .decodeFrame s = .next (s.complete (frameResults r)) := by
  simp [exec, execDecodeFrame, withIn_some hin, hr]

/-- A verdict that can only fail with MALFORMED_FRAME, and fails, leaves that code and nothing else (R200). -/
theorem conclude_malformed {α : Type} {v : Except StatusCode α} (s : State) (w : α → Results)
    (herror : ∀ e, v = .error e → e = .malformedFrame) (hnone : ∀ a, v ≠ .ok a) :
    s.conclude v w = { s with res := onlyStatus 0x01 } := by
  obtain ⟨a, ha, -⟩ | ⟨e, he, hraise⟩ := conclude_cases s v w
  · exact absurd ha (hnone a)
  · rw [hraise, herror e he]
    rfl

/-- DECODE_FRAME of a string that the decoder does not accept (R121). -/
theorem exec_decodeFrame_malformed {s : State} {b : List Byte} (hin : s.inBuf = some b)
    (hnone : ∀ r, decodeFrame b ≠ .ok r) : exec .decodeFrame s = .next { s with res := onlyStatus 0x01 } :=
  (withIn_some hin _).trans (congrArg _ (conclude_malformed s _ (fun _ => decodeFrame_error) hnone))

/-- DECODE_PING_RESPONSE of a string that the decoder does not accept (R124). -/
theorem exec_decodePingResponse_malformed {s : State} {b : List Byte} (hin : s.inBuf = some b)
    (hnone : ∀ r, decodePingResponse Config.cce.pingOptionsOffset b ≠ .ok r) :
    exec .decodePingResponse s = .next { s with res := onlyStatus 0x01 } :=
  (withIn_some hin _).trans (congrArg _ (conclude_malformed s _ (fun _ => decodePingResponse_error) hnone))

/-! ## One changed bit of a frame (R123)

A frame is the covered header, the CRC of what is covered, and the payload. A changed bit is in one of the three: in
the header or the payload it changes the CRC but not the stored bytes, in the CRC it changes only the stored bytes. -/

theorem flipBit_length (b : List Byte) (index bit : Nat) : (flipBit b index bit).length = b.length :=
  List.length_modify ..

theorem flipBit_ne {b : List Byte} {index bit : Nat} (hindex : index < b.length) (hbit : bit < 8) :
    flipBit b index bit ≠ b := fun h =>
  crcFold_flipBit_ne crcSeed hindex hbit (by rw [h])

/-- A changed place in the first part of a string leaves the second part. -/
theorem flipBit_append_left {a : List Byte} {index : Nat} (h : index < a.length) (b : List Byte) (bit : Nat) :
    flipBit (a ++ b) index bit = flipBit a index bit ++ b := by
  rw [flipBit_eq h, flipBit_eq (by simp; omega), List.take_append_of_le_length h.le, List.getElem_append_left h,
    List.drop_append_of_le_length h]
  simp

/-- A changed place in the second part of a string leaves the first part. -/
theorem flipBit_append_right (a b : List Byte) (index bit : Nat) :
    flipBit (a ++ b) (a.length + index) bit = a ++ flipBit b index bit :=
  List.modifyTailIdx_add _ index a b

/-- A changed bit in the header changes the CRC of header and payload. -/
theorem crc16_flipBit_header_ne {h : List Byte} (p : List Byte) {index bit : Nat} (hindex : index < h.length)
    (hbit : bit < 8) : crc16 [flipBit h index bit, p] ≠ crc16 [h, p] := fun heq =>
  crcFold_flipBit_ne crcSeed hindex hbit (crcFold_left_injective p heq)

/-- A changed bit in the payload changes the CRC of header and payload. -/
theorem crc16_flipBit_payload_ne (h : List Byte) {p : List Byte} {index bit : Nat} (hindex : index < p.length)
    (hbit : bit < 8) : crc16 [h, flipBit p index bit] ≠ crc16 [h, p] :=
  crcFold_flipBit_ne (crcFold crcSeed h) hindex hbit

theorem bytesLe16_injective : Function.Injective bytesLe16 := by
  intro v w h
  injection h with hlo hhi
  injection hhi with hhi
  rw [← le16_bytes v, ← le16_bytes w, hlo, hhi]

/-- Wherever a payload frame is cut into four, two and the other bytes, the two are the CRC of the rest (R71). -/
theorem crcBytes_of_payloadFrame {kind : Byte} {payload h c p : List Byte} (hh : h.length = 4) (hc : c.length = 2)
    (hframe : h ++ (c ++ p) = payloadFrameBytes kind payload) : c = bytesLe16 (crc16 [h, p]) := by
  rw [payloadFrameBytes, List.append_assoc] at hframe
  obtain ⟨rfl, hrest⟩ := List.append_inj hframe hh
  obtain ⟨rfl, rfl⟩ := List.append_inj hrest hc
  rfl

/-- A header, its CRC bytes and a payload are no payload frame with one bit changed. -/
theorem flipBit_frameParts_ne {h p : List Byte} {kind : Byte} {payload : List Byte} {index bit : Nat}
    (hh : h.length = 4) (hindex : index < (h ++ (bytesLe16 (crc16 [h, p]) ++ p)).length) (hbit : bit < 8) :
    flipBit (h ++ (bytesLe16 (crc16 [h, p]) ++ p)) index bit ≠ payloadFrameBytes kind payload := by
  intro hframe
  by_cases hheader : index < h.length
  · rw [flipBit_append_left hheader] at hframe
    have hcrc := crcBytes_of_payloadFrame ((flipBit_length ..).trans hh) rfl hframe
    exact crc16_flipBit_header_ne p hheader hbit (bytesLe16_injective hcrc.symm)
  obtain ⟨i, rfl⟩ := Nat.exists_eq_add_of_le (Nat.not_lt.1 hheader)
  rw [flipBit_append_right] at hframe
  by_cases hstored : i < (bytesLe16 (crc16 [h, p])).length
  · rw [flipBit_append_left hstored] at hframe
    exact flipBit_ne hstored hbit (crcBytes_of_payloadFrame hh (flipBit_length ..) hframe)
  obtain ⟨j, rfl⟩ := Nat.exists_eq_add_of_le (Nat.not_lt.1 hstored)
  rw [flipBit_append_right] at hframe
  have hpayload : j < p.length := by simpa [hh, Nat.add_assoc] using hindex
  have hcrc := crcBytes_of_payloadFrame hh rfl hframe
  exact crc16_flipBit_payload_ne h hpayload hbit (bytesLe16_injective hcrc.symm)

/-- No two payload frames differ in exactly one bit. -/
theorem flipBit_payloadFrameBytes_ne {kind kind' : Byte} {p p' : List Byte} {index bit : Nat}
    (hindex : index < (payloadFrameBytes kind p).length) (hbit : bit < 8) :
    flipBit (payloadFrameBytes kind p) index bit ≠ payloadFrameBytes kind' p' :=
  flipBit_frameParts_ne (h := frameHeader kind (lengthField p.length)) (p := p) rfl hindex hbit

/-- What the decoder accepts it no longer accepts with one bit changed. -/
theorem decodeFrame_flipBit_ne_ok {b : List Byte} {r r' : Frame} {index bit : Nat} (h : decodeFrame b = .ok r)
    (hindex : index < b.length) (hbit : bit < 8) : decodeFrame (flipBit b index bit) ≠ .ok r' := by
  intro h'
  obtain rfl := payloadFrameBytes_of_decodeFrame h
  exact flipBit_payloadFrameBytes_ne hindex hbit (payloadFrameBytes_of_decodeFrame h')

/-! ## The obligations of 41_frame.md -/

/-- Settles O33: the rule's word is the encoding of the instruction; the two-byte frame reads nothing, and a payload
becomes a payload frame or is too long. -/
theorem encodeFrameRuns : Obligations.EncodeFrameRuns := by
  refine ⟨fun kind hasPayload => ?_, illegalOnReservedBits_of_le (by decide), fun _ _ => rfl,
    fun s kind p hin hlen => exec_encodeFrame_tooLong kind hin hlen, ?_⟩
  · have hword := decodeOfEncode (.encodeFrame kind hasPayload) rfl
    simpa [decode, encode, reqWord] using hword
  · rintro s kind p l c hin hlen hl rfl
    obtain rfl : lengthField p.length = l := BitVec.eq_of_toNat_eq ((toNat_lengthField hlen).trans hl.symm)
    exact exec_encodeFrame_payload kind hin hlen

/-- Settles O34: the decoder accepts exactly the frames of R121, and fails only with MALFORMED_FRAME. -/
theorem decodeFrameRuns : Obligations.DecodeFrameRuns := by
  refine ⟨rfl, illegalOnReservedBits_of_le (by decide), fun s b kind length crc payload hin hframe => ?_,
    fun s b hin hnone => exec_decodeFrame_malformed hin fun r hr => hnone _ _ _ _ (decodeFrame_eq_ok_iff.1 hr)⟩
  exact exec_decodeFrame_ok hin ((decodeFrame_eq_ok_iff (r := ⟨kind, length, crc, payload⟩)).2 hframe)

/-- Settles O35: the payload frame that ENCODE_FRAME leaves in OUT decodes to its fields, and two bytes are no
header. -/
theorem frameRoundTrip : Obligations.FrameRoundTrip := by
  refine ⟨fun s kind p hin hlen => ?_, fun s kind => ?_⟩
  · refine ⟨_, _, exec_encodeFrame_payload kind hin hlen, rfl, rfl, fun u hu => ?_⟩
    exact ⟨_, exec_decodeFrame_ok hu (decodeFrame_payloadFrameBytes kind hlen), rfl, rfl, rfl, rfl⟩
  · refine ⟨_, bareFrameBytes kind, rfl, rfl, rfl, fun u hu => exec_decodeFrame_malformed hu fun r hr => ?_⟩
    cases (decodeFrame_bareFrameBytes kind).symm.trans hr

/-- Settles O36: the encoded frame is one the decoder accepts, and no such frame is one bit away from another. -/
theorem frameSingleBitCorruption : Obligations.FrameSingleBitCorruption := by
  intro s t u kind f index bit hexec hout hindex hbit hu
  obtain ⟨p, hlen, rfl⟩ := exec_encodeFrame_out hexec hout
  exact exec_decodeFrame_malformed hu fun r =>
    decodeFrame_flipBit_ne_ok (decodeFrame_payloadFrameBytes kind hlen) hindex hbit

/-- Settles O37: a ping response decodes to the fields it is laid out of, and what the decoder accepts is one. -/
theorem decodePingResponseRuns : Obligations.DecodePingResponseRuns := by
  refine ⟨rfl, illegalOnReservedBits_of_le (by decide), ?_, fun s b hin hnone => ?_⟩
  · intro s patch minor major byte5 byte6 byte7 c0 c1 hin hcrc
    have hbytes := pingResponseBytes_of_crc hcrc
    have hdecoded := exec_decodePingResponse_ok (hin.trans (congrArg some hbytes))
      (decodePingResponse_pingResponseBytes _ patch minor major byte5 byte6 byte7)
    rw [hdecoded, ← hcrc, ← pingOptions_eq_ite]
    rfl
  · refine exec_decodePingResponse_malformed hin fun r hr => ?_
    obtain ⟨byte5, byte6, byte7, c0, c1, hb, hcrc⟩ := decodePingResponse_ok hr
    exact hnone _ _ _ _ _ _ _ _ hb hcrc

end Sys2Proof.Machine
end

section
/-! SUPPORT. The Command Codec (42_command.md R150 to R156): what ENCODE_COMMAND needs of PARAM, when the decoders
accept, and what the operations answer. -/

namespace Sys2Proof.Machine

/-! ## The parameter registers (R25, R150) -/

theorem writtenPrefix_map_some (vs : List Word) (k : Nat) : writtenPrefix (vs.map some) k vs.length = .ok vs := by
  induction vs generalizing k with
  | nil => rfl
  | cons v vs ih => simp only [List.map_cons, List.length_cons, writtenPrefix, ih]

/-- A parameter file that holds these values first gives them where that many are asked for. -/
theorem writtenPrefix_of_paramsHold {ps : Vector (Option Word) 7} {vs : List Word} (hlen : vs.length ≤ maxParams)
    (hhold : paramsHold ps vs) : writtenPrefix ps.toList 0 vs.length = .ok vs := by
  have htake : ps.toList.take vs.length = (vs.map some).take vs.length := by
    refine List.ext_getElem (by simpa [maxParams] using hlen) fun i hi _ => ?_
    simp only [List.length_take, Vector.length_toList, lt_inf_iff] at hi
    simpa [hi.1] using hhold ⟨i, hi.2⟩ hi.1
  rw [writtenPrefix_congr 0 htake, writtenPrefix_map_some]

/-- An operation that needs an unwritten PARAM register does not run (R30, R150). -/
theorem withParams_of_unwritten {s : State} {n : Nat} {k : Fin 7} (hk : k.val < n) (hnone : s.param[k] = none)
    (run : List Word → Answer) : ∃ j : Fin 7, withParams s n run = .fault (.readUnwritten (.param j)) := by
  unfold withParams
  split
  · next vs hvs =>
    have hlt : k.val < vs.length := by rw [writtenPrefix_length hvs, Vector.length_toList]; omega
    have hget : s.param.toList[k.val]? = some (some vs[k.val]) := writtenPrefix_get hvs k.val hlt
    have hkey : s.param.toList[k.val]? = some none := by rw [← hnone]; simp
    cases hkey.symm.trans hget
  · exact ⟨_, rfl⟩

/-! ## ENCODE_COMMAND (R150) -/

theorem flagByte_eq_ite (hasData : Bool) : flagByte hasData = if hasData then 0x01 else 0x00 := by
  cases hasData <;> rfl

/-- The count byte a command of these parameters is given is the PCOUNT that asked for them (R72, R150). -/
theorem ofNat_length_eq_pcount {vs : List Word} {pcount : Byte} (hlen : vs.length = pcount.toNat) :
    BitVec.ofNat 8 vs.length = pcount := by
  rw [hlen, BitVec.ofNat_toNat, BitVec.setWidth_eq]

/-- A command of at most seven parameters is never too long for its frame (R71, R150). -/
theorem encodeCommand_eq_ok (kind : Byte) (hasData : Bool) {vs : List Word} (hlen : vs.length ≤ maxParams) :
    encodeCommand kind hasData vs = .ok (commandFrameBytes kind hasData vs) :=
  if_neg (Nat.not_lt.2 (commandBytes_length_le _ _ _ _ hlen))

/-- ENCODE_COMMAND with more parameters than a command has (R150). -/
theorem exec_encodeCommand_tooMany {pcount : Byte} (s : State) (kind : Byte) (hasData : Bool)
    (hcount : maxParams < pcount.toNat) :
    exec (.encodeCommand kind hasData pcount) s = .next (s.raise .tooManyParameters) :=
  if_pos hcount

/-- ENCODE_COMMAND with a count that is not too large reads PARAM (R150). -/
theorem exec_encodeCommand_withParams {pcount : Byte} (s : State) (kind : Byte) (hasData : Bool)
    (hcount : pcount.toNat ≤ maxParams) : exec (.encodeCommand kind hasData pcount) s =
      withParams s pcount.toNat fun vs => .next (s.conclude (encodeCommand kind hasData vs) outWrite) :=
  if_neg (Nat.not_lt.2 hcount)

/-- ENCODE_COMMAND with the needed PARAM registers written (R150). -/
theorem exec_encodeCommand_ok {s : State} {pcount : Byte} {vs : List Word} (kind : Byte) (hasData : Bool)
    (hcount : pcount.toNat ≤ maxParams) (hlen : vs.length = pcount.toNat) (hhold : paramsHold s.param vs) :
    exec (.encodeCommand kind hasData pcount) s =
      .next (s.complete (outWrite (commandFrameBytes kind hasData vs))) := by
  have hmax : vs.length ≤ maxParams := hlen ▸ hcount
  rw [exec_encodeCommand_withParams s kind hasData hcount, withParams, ← hlen,
    writtenPrefix_of_paramsHold hmax hhold]
  simp only [encodeCommand_eq_ok kind hasData hmax, conclude_ok]

/-- A frame that ENCODE_COMMAND produced is the command frame of at most seven parameters (R150). -/
theorem exec_encodeCommand_out {s t : State} {kind : Byte} {hasData : Bool} {pcount : Byte} {f : List Byte}
    (h : exec (.encodeCommand kind hasData pcount) s = .next t) (hout : t.res.out = some f) :
    ∃ vs, vs.length ≤ maxParams ∧ f = commandFrameBytes kind hasData vs := by
  rcases Nat.lt_or_ge maxParams pcount.toNat with hmany | hcount
  · cases (exec_encodeCommand_tooMany s kind hasData hmany).symm.trans h
    cases hout
  · rw [exec_encodeCommand_withParams s kind hasData hcount] at h
    obtain ⟨vs, hvs, hrun⟩ := withParams_next h
    have hmax : vs.length ≤ maxParams := by rw [writtenPrefix_length hvs]; omega
    rw [encodeCommand_eq_ok kind hasData hmax] at hrun
    cases hrun
    cases hout
    exact ⟨vs, hmax, rfl⟩

/-! ## When the decoder accepts (R151) -/

/-- The parameter at an index is the word of the four bytes at four times that index (R151). -/
theorem getElem?_wordsLe {body : List Byte} {k : Nat} {b0 b1 b2 b3 : Byte} (h0 : body[4 * k]? = some b0)
    (h1 : body[4 * k + 1]? = some b1) (h2 : body[4 * k + 2]? = some b2) (h3 : body[4 * k + 3]? = some b3) :
    (wordsLe body)[k]? = some (le32 b0 b1 b2 b3) := by
  induction body using wordsLe.induct generalizing k with
  | case1 _ _ _ _ rest ih =>
    cases k with
    | zero =>
      cases h0; cases h1; cases h2; cases h3
      rfl
    | succ k => exact ih h0 h1 h2 h3
  | case2 body hshort =>
    obtain ⟨hlen, -⟩ := List.getElem?_eq_some_iff.1 h3
    match body, hshort, hlen with
    | b0 :: b1 :: b2 :: b3 :: rest, hshort, _ => exact absurd rfl (hshort b0 b1 b2 b3 rest)

/-- The parameters of a body, index by index, as `isCommand` states them (R151). -/
theorem eq_wordsLe_iff {body : List Byte} {params : List Word} {n : Nat} (hbody : body.length = 4 * n) :
    params = wordsLe body ↔ params.length = n ∧
      ∀ k < n, ∃ b0 b1 b2 b3 : Byte, body[4 * k]? = some b0 ∧ body[4 * k + 1]? = some b1 ∧
        body[4 * k + 2]? = some b2 ∧ body[4 * k + 3]? = some b3 ∧ params[k]? = some (le32 b0 b1 b2 b3) := by
  have hlen : (wordsLe body).length = n := by rw [wordsLe_length, hbody]; omega
  constructor
  · rintro rfl
    refine ⟨hlen, fun k hk => ?_⟩
    have hget : ∀ j < 4, ∃ v, body[4 * k + j]? = some v := fun j hj =>
      ⟨_, List.getElem?_eq_getElem (by omega)⟩
    obtain ⟨b0, h0⟩ := hget 0 (by omega)
    obtain ⟨b1, h1⟩ := hget 1 (by omega)
    obtain ⟨b2, h2⟩ := hget 2 (by omega)
    obtain ⟨b3, h3⟩ := hget 3 (by omega)
    exact ⟨b0, b1, b2, b3, h0, h1, h2, h3, getElem?_wordsLe h0 h1 h2 h3⟩
  · rintro ⟨hparams, hwords⟩
    refine List.ext_getElem? fun k => ?_
    rcases Nat.lt_or_ge k n with hk | hk
    · obtain ⟨b0, b1, b2, b3, h0, h1, h2, h3, hword⟩ := hwords k hk
      rw [hword, getElem?_wordsLe h0 h1 h2 h3]
    · rw [List.getElem?_eq_none (hparams.trans_le hk), List.getElem?_eq_none (hlen.trans_le hk)]

/-- The decoder accepts exactly the commands of R151, with their fields. -/
theorem decodeCommand_eq_ok_iff {b : List Byte} {c : Command} : decodeCommand b = .ok c ↔
    isCommand b c.frameKind c.length c.crc c.kind c.flag c.rsvd c.count c.params := by
  constructor
  · intro h
    obtain ⟨r, hr, hc⟩ := decodeCommand_ok h
    obtain ⟨body, hpayload, hcount, hbody, hparams, hkind, hlength, hcrc⟩ := commandOf_ok hc
    obtain ⟨hlen, hwords⟩ := (eq_wordsLe_iff hbody).1 hparams
    refine ⟨r.payload, body, ?_, hpayload, hcount, ?_, hlen, hwords⟩
    · rw [hkind, hlength, hcrc]
      exact decodeFrame_eq_ok_iff.1 hr
    · rw [hpayload]
      simp only [List.length_cons]
      omega
  · obtain ⟨frameKind, length, crc, kind, flag, rsvd, count, params⟩ := c
    rintro ⟨payload, body, hframe, rfl, hcount, hlen, hparams⟩
    have hr := (decodeFrame_eq_ok_iff (r := ⟨frameKind, length, crc, _⟩)).2 hframe
    have hbody : body.length = 4 * count.toNat := by simpa [Nat.add_comm 4] using hlen
    obtain rfl : params = wordsLe body := (eq_wordsLe_iff hbody).2 hparams
    simp [decodeCommand, hr, commandOf, maxParams, cmdHeaderLen, Nat.not_lt.2 hcount, hbody, Nat.add_comm 4]

/-- A command frame that ENCODE_COMMAND builds is decoded to the fields it was built of (R155). -/
theorem decodeCommand_commandFrameBytes (kind : Byte) (hasData : Bool) {vs : List Word}
    (hlen : vs.length ≤ maxParams) :
    ∃ length crc : Half, decodeCommand (commandFrameBytes kind hasData vs) =
      .ok ⟨frameKindCommand, length, crc, kind, flagByte hasData, 0x00, BitVec.ofNat 8 vs.length, vs⟩ :=
  decodeCommand_commandBytes _ _ _ _ _ (toNat_ofNat_of_le_maxParams hlen).symm hlen

/-- A command that the decoder accepts is no longer one with one bit changed (R156). -/
theorem decodeCommand_flipBit_ne_ok {b : List Byte} {c c' : Command} {index bit : Nat} (h : decodeCommand b = .ok c)
    (hindex : index < b.length) (hbit : bit < 8) : decodeCommand (flipBit b index bit) ≠ .ok c' := by
  intro h'
  obtain ⟨r, hr, -⟩ := decodeCommand_ok h
  obtain ⟨r', hr', -⟩ := decodeCommand_ok h'
  exact decodeFrame_flipBit_ne_ok hr hindex hbit hr'

/-! ## What the decoders' operations answer (R151, R153) -/

/-- DECODE_COMMAND of a string that the decoder accepts (R151). -/
theorem exec_decodeCommand_ok {s : State} {b : List Byte} {c : Command} (hin : s.inBuf = some b)
    (hc : decodeCommand b = .ok c) : exec .decodeCommand s = .next (s.complete (commandResults c)) := by
  simp [exec, execDecodeCommand, withIn_some hin, hc]

/-- DECODE_COMMAND of a string that the decoder does not accept (R151). -/
theorem exec_decodeCommand_malformed {s : State} {b : List Byte} (hin : s.inBuf = some b)
    (hnone : ∀ c, decodeCommand b ≠ .ok c) : exec .decodeCommand s = .next { s with res := onlyStatus 0x01 } :=
  (withIn_some hin _).trans (congrArg _ (conclude_malformed s _ (fun _ => decodeCommand_error) hnone))

/-- A generic response gives its two parameters (R153). -/
theorem exec_decodeGenericResponse_ok {s : State} {b : List Byte} {c : Command} {statusCode echoedKind : Word}
    (hin : s.inBuf = some b) (hc : decodeCommand b = .ok c) (hkind : c.kind = Config.cce.cmdKindResponseGeneric)
    (hcount : c.count = 2) (hparams : c.params = [statusCode, echoedKind]) :
    exec .decodeGenericResponse s = .next (s.complete (genericResults (statusCode, echoedKind))) := by
  simp [exec, execDecodeGenericResponse, withIn_some hin, decodeGenericResponse, hc, hkind, hcount, hparams]

/-- Any other command has the wrong shape (R153). -/
theorem exec_decodeGenericResponse_shape {s : State} {b : List Byte} {c : Command} (hin : s.inBuf = some b)
    (hc : decodeCommand b = .ok c) (hshape : c.kind ≠ Config.cce.cmdKindResponseGeneric ∨ c.count ≠ 2) :
    exec .decodeGenericResponse s = .next (s.raise .unexpectedResponseShape) := by
  simp only [exec, execDecodeGenericResponse, withIn_some hin, decodeGenericResponse, hc, if_pos hshape,
    conclude_error]

/-- The shape is looked at only in a decoded command (R153, R203). -/
theorem exec_decodeGenericResponse_malformed {s : State} {b : List Byte} (hin : s.inBuf = some b)
    (hnone : ∀ c, decodeCommand b ≠ .ok c) :
    exec .decodeGenericResponse s = .next { s with res := onlyStatus 0x01 } := by
  cases hc : decodeCommand b with
  | ok c => exact absurd hc (hnone c)
  | error e =>
    obtain rfl := decodeCommand_error hc
    simp only [exec, execDecodeGenericResponse, withIn_some hin, decodeGenericResponse, hc, conclude_error]
    rfl

/-! ## Ack and nak (R6, R154) -/

/-- DECODE_ACK compares IN with the ack frame (R154). -/
theorem exec_decodeAck {s : State} {b : List Byte} (hin : s.inBuf = some b) : exec .decodeAck s =
    ackAnswer s (decide (b = bareFrameBytes Config.cce.frameKindAck)) := by
  simp only [exec, execDecodeAck, withIn_some hin]
  match b, hin with
  | [m, k], hin => simp [inRead_below hin, bareFrameBytes, beq_eq_decide]
  | [], _ | [_], _ | _ :: _ :: _ :: _, _ => simp [bareFrameBytes]

theorem exec_decodeAck_of_ack {s : State} (hin : s.inBuf = some (bareFrameBytes Config.cce.frameKindAck)) :
    exec .decodeAck s = ackAnswer s true := by
  rw [exec_decodeAck hin, decide_eq_true rfl]

theorem exec_decodeAck_of_ne {s : State} {b : List Byte} (hin : s.inBuf = some b)
    (hne : b ≠ bareFrameBytes Config.cce.frameKindAck) : exec .decodeAck s = ackAnswer s false := by
  rw [exec_decodeAck hin, decide_eq_false hne]

/-- The ack and the nak kind of the block's configuration differ (R6, log 3). -/
theorem config_cce_wf : Config.cce.wf := by
  unfold Config.wf Config.cce
  split
  · simp
  · assumption

/-! ## The obligations of 42_command.md -/

/-- Settles O44: the command frame that ENCODE_COMMAND leaves in OUT decodes to the fields it was built of, and a
generic response has the count 2 that its two parameters give. -/
theorem commandRoundTrip : Obligations.CommandRoundTrip := by
  intro s kind hasData pcount vs hcount hlen hhold
  obtain ⟨length, crc, hdecode⟩ := decodeCommand_commandFrameBytes kind hasData (hlen.trans_le hcount)
  rw [ofNat_length_eq_pcount hlen] at hdecode
  refine ⟨_, _, exec_encodeCommand_ok kind hasData hcount hlen hhold, rfl, rfl, fun u hu => ?_, ?_⟩
  · obtain ⟨-, hlength, -⟩ := decodeCommand_ok_count hdecode
    exact ⟨_, exec_decodeCommand_ok hu hdecode, rfl, rfl, congrArg some hlength, rfl,
      congrArg some (flagByte_eq_ite hasData), rfl, rfl, rfl⟩
  · rintro u statusCode echoedKind hu hkind rfl
    have hcount2 : pcount = 2 := (ofNat_length_eq_pcount hlen).symm
    exact ⟨_, exec_decodeGenericResponse_ok hu hdecode hkind hcount2 rfl, rfl, rfl, rfl⟩

/-- Settles O39: the rule's word is the encoding of the instruction; the count is checked first, and PARAM gives either
the values of the frame or an unwritten register. -/
theorem encodeCommandRuns : Obligations.EncodeCommandRuns := by
  refine ⟨fun kind hasData pcount => ?_, illegalOnReservedBits_of_le (by decide),
    fun s kind hasData _ hmany => exec_encodeCommand_tooMany s kind hasData hmany, ?_,
    fun s kind hasData pcount k hcount hk hnone => ?_⟩
  · have hword := decodeOfEncode (.encodeCommand kind hasData pcount) rfl
    simpa [decode, encode, reqWord] using hword
  · rintro s kind hasData pcount vs p l c hcount hlen hhold hp hl rfl
    have hpayload : commandPayload kind hasData vs = p := by
      rw [hp, commandPayload, commandBytes, ofNat_length_eq_pcount hlen, flagByte_eq_ite]
    have hlength : lengthField p.length = l := by
      rw [← hpayload, commandPayload, commandBytes_length, hlen, ← hl, lengthField, BitVec.ofNat_toNat,
        BitVec.setWidth_eq]
    rw [exec_encodeCommand_ok kind hasData hcount hlen hhold, commandFrameBytes, hpayload, payloadFrameBytes, frameCrc,
      hlength]
    rfl
  · rw [exec_encodeCommand_withParams s kind hasData hcount]
    exact withParams_of_unwritten hk hnone _

/-- Settles O40: the decoder accepts exactly the commands of R151, and fails only with MALFORMED_FRAME. -/
theorem decodeCommandRuns : Obligations.DecodeCommandRuns := by
  refine ⟨rfl, illegalOnReservedBits_of_le (by decide), ?_, fun s b hin hnone =>
    exec_decodeCommand_malformed hin fun c hc => hnone _ _ _ _ _ _ _ _ (decodeCommand_eq_ok_iff.1 hc)⟩
  intro s b frameKind length crc kind flag rsvd count params hin hcommand
  exact exec_decodeCommand_ok hin
    ((decodeCommand_eq_ok_iff (c := ⟨frameKind, length, crc, kind, flag, rsvd, count, params⟩)).2 hcommand)

/-- Settles O41: a string that holds a command is decoded and its shape compared, any other is malformed. -/
theorem decodeGenericResponseRuns : Obligations.DecodeGenericResponseRuns := by
  refine ⟨rfl, illegalOnReservedBits_of_le (by decide), ?_, ?_, fun s b hin hnone =>
    exec_decodeGenericResponse_malformed hin fun c hc => hnone _ _ _ _ _ _ _ _ (decodeCommand_eq_ok_iff.1 hc)⟩
  · intro s b frameKind length crc flag rsvd statusCode echoedKind hin hcommand
    exact exec_decodeGenericResponse_ok hin (decodeCommand_eq_ok_iff (c :=
      ⟨frameKind, length, crc, _, flag, rsvd, 2, [statusCode, echoedKind]⟩).2 hcommand) rfl rfl rfl
  · intro s b frameKind length crc kind flag rsvd count params hin hcommand hshape
    exact exec_decodeGenericResponse_shape hin (decodeCommand_eq_ok_iff (c :=
      ⟨frameKind, length, crc, kind, flag, rsvd, count, params⟩).2 hcommand) hshape

/-- Settles O42: R_ACK is the comparison of IN with the ack frame. -/
theorem decodeAckRuns : Obligations.DecodeAckRuns := by
  exact ⟨rfl, illegalOnReservedBits_of_le (by decide), fun s hin => exec_decodeAck_of_ack hin,
    fun s b hin hne => exec_decodeAck_of_ne hin hne⟩

/-- Settles O45: the encoded command is one the decoder accepts, one changed bit makes it none, and then neither
operation looks at a shape. -/
theorem commandSingleBitCorruption : Obligations.CommandSingleBitCorruption := by
  intro s t u kind hasData pcount f index bit hexec hout hindex hbit hu
  obtain ⟨vs, hlen, rfl⟩ := exec_encodeCommand_out hexec hout
  obtain ⟨_, _, hdecode⟩ := decodeCommand_commandFrameBytes kind hasData hlen
  have hnone : ∀ c, decodeCommand (flipBit (commandFrameBytes kind hasData vs) index bit) ≠ .ok c :=
    fun _ => decodeCommand_flipBit_ne_ok hdecode hindex hbit
  exact ⟨exec_decodeCommand_malformed hu hnone, exec_decodeGenericResponse_malformed hu hnone⟩

/-- Settles O43: the nak frame differs from the ack frame in its kind. -/
theorem nakIsNoAck : Obligations.NakIsNoAck := by
  refine ⟨config_cce_wf, fun s => ?_⟩
  have hne : bareFrameBytes Config.cce.frameKindNak ≠ bareFrameBytes Config.cce.frameKindAck := fun h => by
    simp only [bareFrameBytes, List.cons.injEq, true_and, and_true] at h
    exact config_cce_wf h.symm
  exact ⟨_, _, rfl, exec_decodeAck_of_ne (writeIn_inBuf s _) hne, rfl, rfl⟩

/-- Settles O46: with no parameters no PARAM register is needed, and the frame is evaluated. -/
theorem resetRequestIsTheLiteral : Obligations.ResetRequestIsTheLiteral := by
  intro s
  have hframe : commandFrameBytes 0x0B false [] = [0x5A, 0xA4, 0x04, 0x00, 0x6F, 0x46, 0x0B, 0x00, 0x00, 0x00] := by
    decide +kernel
  have hexec := exec_encodeCommand_ok (s := s) (pcount := 0) (vs := []) (Config.cmdKind .reset) false (by decide) rfl
    fun _ hk => absurd hk (Nat.not_lt_zero _)
  rw [hexec]
  exact congrArg (fun f => Host.Outcome.next (s.complete (outWrite f))) hframe

end Sys2Proof.Machine
end

section
/-! SUPPORT. What a failing operation leaves, which codes it can leave, and which failure wins (60_exceptions.md R200,
R202, R203). -/

namespace Sys2Proof.Machine

/-! ## The codes an operation leaves in STATUS (R202) -/

/-- A conclusion leaves OK or a code its verdict fails with. -/
theorem conclude_status_mem {α : Type} {v : Except StatusCode α} {codes : List Byte} (s : State) (w : α → Results)
    (herror : ∀ e, v = .error e → statusByte e ∈ codes) :
    ∃ code, (s.conclude v w).res.status = some code ∧ code ∈ 0x00 :: codes := by
  obtain ⟨a, -, hend⟩ | ⟨e, he, hend⟩ := conclude_cases s v w
  · exact ⟨0x00, by rw [hend]; rfl, List.mem_cons_self⟩
  · exact ⟨statusByte e, by rw [hend]; rfl, List.mem_cons_of_mem _ (herror e he)⟩

/-- An operation that reads IN and concludes with a codec's verdict leaves OK or a code the codec fails with. -/
theorem withIn_conclude_status_mem {α : Type} {s t : State} {codec : List Byte → Except StatusCode α}
    {w : α → Results} {codes : List Byte} (h : withIn s (fun b => .next (s.conclude (codec b) w)) = .next t)
    (herror : ∀ b e, codec b = .error e → statusByte e ∈ codes) :
    ∃ code, t.res.status = some code ∧ code ∈ 0x00 :: codes := by
  obtain ⟨b, -, hb⟩ := withIn_next h
  cases hb
  exact conclude_status_mem s w (herror b)

theorem exec_encodeFrame_status {s t : State} {kind : Byte} {hasPayload : Bool}
    (h : exec (.encodeFrame kind hasPayload) s = .next t) :
    ∃ code, t.res.status = some code ∧ code ∈ [0x00, statusByte .payloadTooLong] := by
  have herror : ∀ payload e, encodeFrame kind payload = .error e → statusByte e ∈ [statusByte .payloadTooLong] :=
    fun _ _ he => encodeFrame_error he ▸ List.mem_cons_self
  cases hasPayload with
  | true => exact withIn_conclude_status_mem h fun p => herror (some p)
  | false => cases h; exact conclude_status_mem s outWrite (herror none)

/-- A command that passed the count check is never too long for a frame (R150). -/
theorem exec_encodeCommand_status {s t : State} {kind : Byte} {hasData : Bool} {pcount : Byte}
    (h : exec (.encodeCommand kind hasData pcount) s = .next t) :
    ∃ code, t.res.status = some code ∧ code ∈ [0x00, statusByte .tooManyParameters] := by
  by_cases hcount : pcount.toNat ≤ maxParams
  · rw [exec_encodeCommand_withParams s kind hasData hcount] at h
    obtain ⟨vs, hvs, hrun⟩ := withParams_next h
    have hlen : vs.length ≤ maxParams := by rw [writtenPrefix_length hvs]; omega
    rw [encodeCommand_eq_ok kind hasData hlen] at hrun
    cases hrun
    exact ⟨_, rfl, List.mem_cons_self⟩
  · rw [exec_encodeCommand_tooMany s kind hasData (Nat.not_le.1 hcount)] at h
    cases h
    exact ⟨_, rfl, List.mem_cons_of_mem _ List.mem_cons_self⟩

/-- DECODE_ACK completes on every input (R154). -/
theorem exec_decodeAck_status {s t : State} (h : exec .decodeAck s = .next t) : t.res.status = some 0x00 := by
  obtain ⟨b, hin, -⟩ := withIn_next h
  rw [exec_decodeAck hin] at h
  cases h
  rfl

/-- Every operation leaves a code of its row of R202. -/
theorem exec_status_mem_possibleStatus {instr : Instr} {s t : State} (hop : instr.isOperation = true)
    (h : exec instr s = .next t) : ∃ code, t.res.status = some code ∧ code ∈ possibleStatus instr := by
  cases instr with
  | crcInit | crcRead => cases h; exact ⟨_, rfl, List.mem_cons_self⟩
  | crcFeed | crc16 =>
    obtain ⟨b, -, hb⟩ := withIn_next h
    cases hb
    exact ⟨_, rfl, List.mem_cons_self⟩
  | encodeFrame kind hasPayload => exact exec_encodeFrame_status h
  | decodeFrame =>
    exact withIn_conclude_status_mem h fun b e he => decodeFrame_error he ▸ List.mem_cons_self
  | decodePingResponse =>
    exact withIn_conclude_status_mem h fun b e he => decodePingResponse_error he ▸ List.mem_cons_self
  | encodeCommand kind hasData pcount => exact exec_encodeCommand_status h
  | decodeCommand =>
    exact withIn_conclude_status_mem h fun b e he => decodeCommand_error he ▸ List.mem_cons_self
  | decodeGenericResponse =>
    refine withIn_conclude_status_mem (codes := [0x01, 0x03]) h fun b e he => ?_
    rcases decodeGenericResponse_error he with rfl | rfl <;> decide
  | decodeAck => exact ⟨_, exec_decodeAck_status h, List.mem_cons_self⟩
  | reservedOpB | reservedOpC | reservedOpD | reservedOpE | reservedOpF =>
    cases h; exact ⟨_, rfl, List.mem_cons_self⟩
  | wireBareFrame | wirePingRequest | wireAck | wireNak | wirePayloadFrame | wireCommandFrame
  | wireGenericResponse | wirePingResponse => cases hop

/-! ## The obligations of 60_exceptions.md -/

/-- Settles O47: an operation that did not end with OK raised its code, which writes nothing but STATUS. -/
theorem failureWritesOnlyStatus : Obligations.FailureWritesOnlyStatus := by
  intro instr s t code hop h hstatus hcode
  have hfail : t.res.status ≠ some 0x00 := by simpa [hstatus] using hcode
  obtain ⟨raised, rfl⟩ := (exec_ends hop h).of_status_not_ok hfail
  obtain rfl : raised = code := Option.some.inj hstatus
  rfl

/-- Settles O48: the codes of each row are those its codec can fail with, and reserved fields are refused before the
operation runs. -/
theorem statusCodesPerOperation : Obligations.StatusCodesPerOperation :=
  ⟨fun _ _ _ => exec_status_mem_possibleStatus, fun _ => illegalOnReservedBits_of_le⟩

/-- Settles O49: an illegal word and a count above 7 are seen before any operand is read, and a string that
DECODE_COMMAND rejects holds no command whose shape could be looked at. -/
theorem failurePriority : Obligations.FailurePriority := by
  refine ⟨fun s rest w htodo hreq hillegal _ _ => illegalWordsRaise s rest w htodo hreq hillegal,
    fun s kind hasData _ hmany _ => exec_encodeCommand_tooMany s kind hasData hmany, fun s t h hstatus => ?_⟩
  obtain ⟨b, hin, -⟩ := withIn_next h
  refine exec_decodeGenericResponse_malformed hin fun c hc => ?_
  rw [exec_decodeCommand_ok hin hc] at h
  cases h
  simp at hstatus

end Sys2Proof.Machine
end

section
/-! SUPPORT. What reset leaves, how a start runs, and what a block that nobody starts keeps (70_reset_and_hazards.md
R230, R231, R234, R235). -/

namespace Sys2Proof.Machine

/-! ## Reset (R230, R231) -/

/-- CRC_ACC is the one register that holds a value after reset. -/
theorem regValue_reset_of_ne_crcAcc {r : Reg} (h : r ≠ .crcAcc) : regValue State.reset r = none := by
  cases r with
  | crcAcc => exact absurd rfl h
  | param k | rParam k => simp [regValue, State.reset, Results.unwritten]
  | _ => rfl

/-- Settles O12: the fields of the reset state, and the register table's view of them. -/
theorem resetLeaves : Obligations.ResetLeaves := by
  have hfile (k : Fin 7) : (Vector.replicate 7 (none : Option Word))[k] = none := Vector.getElem_replicate k.isLt
  exact ⟨rfl, rfl, rfl, hfile, rfl, rfl, rfl, rfl, rfl, rfl, rfl, rfl, rfl, rfl, rfl, rfl, rfl, rfl, hfile, rfl, rfl,
    rfl, fun _ => regValue_reset_of_ne_crcAcc⟩

/-- Settles O13: the reset step keeps nothing of the state but the caller's side. -/
theorem resetEventResets : Obligations.ResetEventResets :=
  fun _ _ => step_of_todo_cons

/-- Settles O51: with nothing written the result registers are consistent. -/
theorem resetResultsConsistent : Obligations.ResetResultsConsistent :=
  resultsOk_unwritten

/-! ## The start step (R234) -/

/-- A request word selects an operation, never a wire format (R80). -/
theorem isOperation_operationOf (w : Word) : (operationOf w).isOperation = true := by
  obtain ⟨v, hv, -⟩ := encode_operationOf w
  simp only [Instr.isOperation, hv]

theorem isOperation_of_decodeReq {w : Word} {instr : Instr} (h : decodeReq w = .ok instr) :
    instr.isOperation = true := by
  obtain ⟨rfl, -⟩ := decodeReq_eq_ok_iff.1 h
  exact isOperation_operationOf w

/-- A word that R83 does not list decodes to the operation its code selects. -/
theorem decodeReq_of_not_illegalWord {w : Word} (h : ¬ illegalWord w) : decodeReq w = .ok (operationOf w) := by
  obtain ⟨-, hfields⟩ := not_or.1 h
  obtain ⟨h0, h1⟩ := not_or.1 hfields
  exact decodeReq_eq_ok_iff.2 ⟨rfl, .inr ⟨not_not.1 h0, not_not.1 h1⟩⟩

theorem start_of_decodeReq {s : State} {w : Word} {instr : Instr} (hreq : s.req = some w)
    (hdec : decodeReq w = .ok instr) : start s = exec instr s := by
  simp only [start, hreq, hdec]

/-- The result registers are cleared before the operation runs, so a start does not look at them (R31). -/
theorem start_ignores_res (s : State) (r : Results) : start { s with res := r } = start s := by
  simp only [start]
  split
  · rfl
  · split
    · next hdec => exact exec_ignores_res s r (isOperation_of_decodeReq hdec)
    · rfl

/-- A start that answers a next state ran an operation, which leaves a code of its row, or raised
ILLEGAL_OPERATION. -/
theorem start_writes_status {s t : State} (h : start s = .next t) : t.res.status.isSome = true := by
  unfold start at h
  split at h
  · cases h
  · split at h
    · next hdec =>
      obtain ⟨code, hcode, -⟩ := exec_status_mem_possibleStatus (isOperation_of_decodeReq hdec) h
      simp only [hcode, Option.isSome_some]
    · cases h
      rfl

/-- A caller's write reaches the input registers only (R21). -/
theorem callerWrite_keeps {s t : State} {number : Nat} {v : RegValue} (h : callerWrite number v s = .next t) :
    t.res = s.res ∧ t.crcAcc = s.crcAcc ∧ t.todo = s.todo := by
  obtain ⟨_, rfl⟩ | ⟨_, rfl⟩ | ⟨_, _, rfl⟩ := callerWrite_next h <;> exact ⟨rfl, rfl, rfl⟩

/-- Settles O14: the start step reads REQ and runs what it decodes to. -/
theorem stepRunsTheRequestedOperation : Obligations.StepRunsTheRequestedOperation := by
  intro s rest w instr htodo hreq hdec
  rw [step_of_todo_cons htodo]
  exact start_of_decodeReq hreq hdec

/-- Settles O16: each item of R234 is a fact about `start` or about the request word; a write reaches no result. -/
theorem startStepByStep : Obligations.StartStepByStep := by
  refine ⟨fun s rest htodo => ⟨unwrittenReadsFault.1 s rest htodo, fun r => ?_,
    fun w => illegalWordsRaise s rest w htodo,
    fun w hreq hlegal => stepRunsTheRequestedOperation s rest w _ htodo hreq (decodeReq_of_not_illegalWord hlegal),
    fun t h => ?_⟩, fun s t rest number v htodo h => ?_⟩
  · rw [step_of_todo_cons htodo, step_of_todo_cons (s := { s with res := r }) htodo]
    exact start_ignores_res { s with todo := rest } r
  · rw [step_of_todo_cons htodo] at h
    exact start_writes_status h
  · rw [step_of_todo_cons htodo] at h
    exact callerWrite_keeps h

/-! ## An idle block (R235) -/

/-- A machine whose step answers the same state stays there for any number of steps. -/
theorem run_of_step_eq_self {s : State} (h : step s = .next s) (n : Nat) :
    Host.Core.run Sys2Proof.core n s = .next s := by
  have hs : Sys2Proof.core.step s = .next s := h
  induction n with
  | zero => rfl
  | succ n ih => simp only [Host.Core.run, hs, ih]

/-- Settles O17: a write and a presented frame reach the inputs, a read reaches the caller's side. -/
theorem idleBlockStaysIdle : Obligations.IdleBlockStaysIdle := by
  refine ⟨fun s n htodo => run_of_step_eq_self (step_of_todo_nil htodo) n, fun s t c rest htodo hstart hreset h => ?_⟩
  cases c with
  | write number v =>
    obtain ⟨hres, hacc, -⟩ := startStepByStep.2 s t rest number v htodo h
    exact ⟨hres, hacc⟩
  | present form b =>
    obtain ⟨-, -, hnext⟩ := stepRunsThePresentedFrame s rest form b htodo
    rw [hnext t h]
    exact ⟨rfl, rfl⟩
  | read number =>
    rw [rerunGivesTheSame.2.2 s t number rest htodo h]
    exact ⟨rfl, rfl⟩
  | start => exact absurd rfl hstart
  | reset => exact absurd rfl hreset

end Sys2Proof.Machine
end
